-- ==== Sys2Proof/Word.lean ====
section
/-! DEFINITION. The word types of the machine (00_scope.md R6, R9) and the sparse byte store every memory uses. -/

namespace Sys2Proof

/-- A data byte (R6: data width 8 bits). -/
abbrev Byte := BitVec 8

/-- A processor address (R6: address width 16 bits). -/
abbrev Addr := BitVec 16

/-- An address of the VTU's own space (49_video_timing_unit.md R270: 14 bits). -/
abbrev VAddr := BitVec 14

/-- A composite address register `v` or `t` (49_video_timing_unit.md R268: 15 bits). -/
abbrev Loopy := BitVec 15

/-- A byte store as plain data: (index, byte) pairs, indices strictly rising, no byte equal to what an unlisted index
reads as. -/
abbrev Memory := List Host.Cell

end Sys2Proof
end

