-- ==== Sys2Proof/Machine/Bits.lean ====
section
/-! DEFINITION. Bit-field, extension and byte-order helpers (00_scope.md R9, R11; 20_memory.md R70). -/

namespace Sys2Proof.Machine

/-- `zext_16` (R9). -/
def zext16 (b : Byte) : Addr := b.zeroExtend 16

/-- `sext_16` (R9). -/
def sext16 (b : Byte) : Addr := b.signExtend 16

/-- `hi ++ lo`, the 16-bit value of two bytes (R9, R11). -/
def join (hi lo : Byte) : Addr := hi ++ lo

/-- `w[15:8]`, which is also the page of an address (00_scope.md R12). -/
def hiByte (w : Addr) : Byte := w.extractLsb' 8 8

/-- `w[7:0]`. -/
def loByte (w : Addr) : Byte := w.extractLsb' 0 8

/-- Bit `i` of a byte, bit 0 the least significant (R9). -/
def bit (b : Byte) (i : Nat) : Bool := b.getLsbD i

/-- `b` with bit 7 replaced. -/
def withBit7 (b : Byte) (on : Bool) : Byte := BitVec.ofBool on ++ b.extractLsb' 0 7

/-- The VRAM address `v[13:0]` (49_video_timing_unit.md R268). -/
def vramAddr (v : Loopy) : VAddr := v.extractLsb' 0 14

/-- The bytes of the first three byte positions of an instruction numbered as spec/opcode_table.json numbers them: byte 0
is bits 7 to 0. -/
def tableBytes (nbits w : Nat) : List Byte :=
  let v := w % 2 ^ nbits
  [BitVec.ofNat 8 v, BitVec.ofNat 8 (v / 0x100), BitVec.ofNat 8 (v / 0x10000)]

end Sys2Proof.Machine
end

