-- ==== Sys2Proof/Config.lean ====
section
/-! DEFINITION. What is fixed for one machine: the parameters the spec leaves OPEN (00_scope.md R7, R8) and the inserted
cartridge (10_state.md R48, 20_memory.md R84 to R91). -/

namespace Sys2Proof

/-- The mirroring mode of the cartridge (20_memory.md R87). -/
inductive Mirroring where
  | horizontal
  | vertical
  deriving DecidableEq, Repr

/-- The program-bank counts this block gives a meaning to (20_memory.md R90: `prgBanks` in {1, 2}). -/
inductive PrgBanks where
  | one
  | two
  deriving DecidableEq, Repr

/-- Which assignment of quadrants to nametable halves the machine has (49_video_timing_unit.md R272, 91_not_in_source.md
N12): `rowPairs` is the fold of R272 (reading A), `squarePairs` the opposite assignment (reading B). -/
inductive NtFold where
  | rowPairs
  | squarePairs
  deriving DecidableEq, Repr

/-- The implementation parameters that no instruction changes (00_scope.md R7, R8; log 4, log 5). -/
structure Config where
  /-- `INT_CYCLES`, the idle ticks an interrupt entry adds (60_exceptions.md R307). -/
  intCycles : Nat
  /-- The nametable fold `nt_half` (49_video_timing_unit.md R272). -/
  ntFold : NtFold
  deriving DecidableEq, Repr

/-- The cartridge, immutable after load (10_state.md R48). -/
structure Cartridge where
  prgBanks : PrgBanks
  /-- `prgRom`, 0x4000 bytes a bank (10_state.md R46). -/
  prg : Memory
  chrBanks : Nat
  /-- `chrRom`, 0x2000 bytes a bank (10_state.md R46). -/
  chr : Memory
  mirroring : Mirroring
  /-- Header flag "battery-backed save RAM present"; no effect on this block (R48). -/
  battery : Bool
  /-- Header flag "trainer block present"; no effect on this block (R48). -/
  trainer : Bool
  /-- The 512 bytes copied when a trainer is present (20_memory.md R88); no effect on this block. -/
  trainerBlock : Memory
  deriving DecidableEq, Repr

end Sys2Proof
end

