-- ==== Sys2Proof/Machine/Constants.lean ====
section
/-! DEFINITION. The named constants of 00_scope.md R6 and R7. -/

namespace Sys2Proof.Machine

/-- First address of the cartridge ROM window (R7; 90_conflicts.md C1). -/
def romBase : Nat := 0x8000
/-- First address of the VTU register window (R6). -/
def portBase : Nat := 0x2000
/-- First address of the plain RAM (20_memory.md R66). -/
def xramBase : Nat := 0x4000
/-- Bytes of work RAM (R6). -/
def ramSize : Nat := 0x0800
/-- Bytes of plain RAM (10_state.md R46). -/
def xramSize : Nat := 0x4000
/-- Bytes of nametable memory (R6). -/
def ntSize : Nat := 0x0800
/-- Bytes of palette memory (R6). -/
def palSize : Nat := 0x20
/-- Bytes of object-attribute memory (R7 `OAM_SIZE`). -/
def oamSize : Nat := 0x100
/-- Bytes of one program bank (R6). -/
def prgBankSize : Nat := 0x4000
/-- Bytes of one graphics bank (R6). -/
def chrBankSize : Nat := 0x2000
/-- The stack page (R7 `STACK_BASE`). -/
def stackBase : Addr := 0x0100#16
/-- R7 `VEC_NMI`. -/
def vecNmi : Addr := 0xFFFA#16
/-- R7 `VEC_RESET`. -/
def vecReset : Addr := 0xFFFC#16
/-- R7 `VEC_IRQ`, also used by BRK. -/
def vecIrq : Addr := 0xFFFE#16
/-- R7 `RESET_CYCLES`. -/
def resetCycles : Nat := 7
/-- R7 `CYCLES_PER_LINE`. -/
def cyclesPerLine : Nat := 341
/-- R7 `LINES_PER_FRAME`. -/
def linesPerFrame : Nat := 262
/-- R7 `VBLANK_LINE`. -/
def vblankLine : Nat := 241
/-- R7 `NT_BASE`, in the VTU address space. -/
def ntBase : Nat := 0x2000
/-- R7 `PAL_BASE`, in the VTU address space. -/
def palBase : Nat := 0x3F00

end Sys2Proof.Machine
end

