-- ==== Sys2Proof/Machine/Memory.lean ====
section
/-! DEFINITION. The byte stores as plain data (10_state.md R46): one canonical form, read, write, and the form itself. -/

namespace Sys2Proof.Machine

/-- What an index that is not listed reads as. DESIGN CHOICE (log 2): the power-on contents are OPEN (00_scope.md R8), and the
recommended default is zero (70_reset_and_hazards.md R341). -/
def unlisted : Byte := 0#8

/-- The byte at an index. -/
def memRead : Memory → Nat → Byte
  | [], _ => unlisted
  | (k, b) :: rest, i => if k = i then b else memRead rest i

/-- List `v` at index `i`, keeping the indices rising. -/
def memInsert : Memory → Nat → Byte → Memory
  | [], i, v => [(i, v)]
  | (k, b) :: rest, i, v =>
    if i < k then (i, v) :: (k, b) :: rest
    else if i = k then (i, v) :: rest
    else (k, b) :: memInsert rest i v

/-- Unlist index `i`. -/
def memErase : Memory → Nat → Memory
  | [], _ => []
  | (k, b) :: rest, i => if k = i then memErase rest i else (k, b) :: memErase rest i

/-- Store a byte; storing what an unlisted index reads as unlists the index, so equal stores are equal lists. -/
def memWrite (m : Memory) (i : Nat) (v : Byte) : Memory :=
  if v = unlisted then memErase m i else memInsert m i v

/-- The store that holds the given bytes from index `i` on: zero bytes are left unlisted. -/
def memOfBytes : Nat → List Byte → Memory
  | _, [] => []
  | i, b :: bs => if b = unlisted then memOfBytes (i + 1) bs else (i, b) :: memOfBytes (i + 1) bs

/-- The canonical form of a store of `size` bytes: indices strictly rising and below `size`, no listed byte equal to the
unlisted one. -/
abbrev memWf (size : Nat) (m : Memory) : Prop :=
  m.Pairwise (fun c d => c.1 < d.1) ∧ ∀ c ∈ m, c.1 < size ∧ c.2 ≠ unlisted

end Sys2Proof.Machine
end

