-- ==== Sys2Proof/Machine/Cartridge.lean ====
section
/-! DEFINITION. The cartridge: its two read functions' indices and the loader of a ROM image (20_memory.md R84 to R90). -/

namespace Sys2Proof.Machine

/-- The number of program banks. -/
def prgCount : PrgBanks → Nat
  | .one => 1
  | .two => 2

/-- The index in `prgRom` of an address of the ROM window (20_memory.md R85): with one bank the bank is mirrored. -/
def prgIndex (banks : PrgBanks) (a : Addr) : Nat :=
  match banks with
  | .two => a.toNat - romBase
  | .one => (a.toNat - romBase) % prgBankSize

/-- `ReadPRG` for an address of the ROM window (20_memory.md R85). -/
def readPrg (c : Cartridge) (a : Addr) : Byte :=
  memRead c.prg (prgIndex c.prgBanks a)

/-- The two halves of nametable memory: `nt_half` of 49_video_timing_unit.md R272, and its opposite assignment (log 5). -/
def ntHalf (fold : NtFold) (mirroring : Mirroring) (quadrant : BitVec 2) : Nat :=
  match fold, mirroring with
  | .rowPairs, .horizontal => if quadrant.getLsbD 1 then 1 else 0
  | .rowPairs, .vertical => if quadrant.getLsbD 0 then 1 else 0
  | .squarePairs, .horizontal => if quadrant.getLsbD 0 then 1 else 0
  | .squarePairs, .vertical => if quadrant.getLsbD 1 then 1 else 0

/-- Why a ROM image yields no cartridge: typed failures before the machine exists (20_memory.md R89, R90). -/
inductive LoadError where
  /-- `InvalidHeader` (R89). -/
  | invalidHeader
  /-- `OutOfMemory`/`Truncated` (R89). -/
  | truncated
  /-- `prgBanks` not in {1, 2}: refused as a launch-time configuration error (R90). -/
  | unsupportedBankCount
  deriving DecidableEq, Repr

/-- The header fields R88 reads. -/
structure Header where
  prgBanks : Nat
  chrBanks : Nat
  mirroring : Mirroring
  battery : Bool
  trainer : Bool
  /-- Header-format discriminant, byte 7 bits 3 to 2. -/
  format : BitVec 2
  deriving DecidableEq, Repr

/-- The four signature bytes, "NES" and 0x1A (R88). -/
def signature : List Byte := [0x4E#8, 0x45#8, 0x53#8, 0x1A#8]

/-- Header length in bytes (R88). -/
def headerSize : Nat := 16

/-- Trainer length in bytes (R88). -/
def trainerSize : Nat := 512

/-- Byte `i` of an image that is long enough to hold it. -/
def imageByte (image : List Byte) (i : Nat) : Byte := image.getD i 0#8

/-- The header fields of an image (R88). -/
def readHeader (image : List Byte) : Header :=
  let b6 := imageByte image 6
  { prgBanks := (imageByte image 4).toNat
    chrBanks := (imageByte image 5).toNat
    mirroring := if bit b6 0 then .vertical else .horizontal
    battery := bit b6 1
    trainer := bit b6 2
    format := (imageByte image 7).extractLsb' 2 2 }

/-- Whether the discriminant names the extended format: 0b10 does, every other value is legacy (R88). -/
def extendedFormat (h : Header) : Bool := h.format = 0b10#2

/-- Bytes 12 to 15 are zero (R88). -/
def tailZero (image : List Byte) : Bool := (image.drop 12).take 4 = [0#8, 0#8, 0#8, 0#8]

/-- `Parse` (R88, R89, R90): the signature, then the header length, then the legacy zero bytes, then the length the
header claims, then the bank count (log 10 for the order). -/
def parseImage (image : List Byte) : Except LoadError Cartridge :=
  if image.take 4 ≠ signature then .error .invalidHeader
  else if image.length < headerSize then .error .truncated
  else
    let h := readHeader image
    if !extendedFormat h && !tailZero image then .error .invalidHeader
    else
      let body := image.drop headerSize
      let trainer := if h.trainer then body.take trainerSize else []
      let roms := if h.trainer then body.drop trainerSize else body
      let prgBytes := prgBankSize * h.prgBanks
      let chrBytes := chrBankSize * h.chrBanks
      if body.length < (if h.trainer then trainerSize else 0) + prgBytes + chrBytes then .error .truncated
      else
        let build (banks : PrgBanks) : Except LoadError Cartridge :=
          .ok { prgBanks := banks
                prg := memOfBytes 0 (roms.take prgBytes)
                chrBanks := h.chrBanks
                chr := memOfBytes 0 ((roms.drop prgBytes).take chrBytes)
                mirroring := h.mirroring
                battery := h.battery
                trainer := h.trainer
                trainerBlock := memOfBytes 0 trainer }
        match h.prgBanks with
        | 1 => build .one
        | 2 => build .two
        | _ => .error .unsupportedBankCount

end Sys2Proof.Machine
end

