-- ==== Sys2Proof/Syntax.lean ====
section
/-! DEFINITION. The instruction set as syntax (30_encoding.md R100 to R125): the 13 addressing modes, the 56 mnemonics, and
`Instr`, one constructor per row of spec/opcode_table.json, carrying the row's operand bits. -/

namespace Sys2Proof

/-- The 13 addressing modes (30_encoding.md section 3). -/
inductive Mode where
  /-- implied (R110) -/
  | imp
  /-- accumulator (R111) -/
  | acc
  /-- immediate (R112) -/
  | imm
  /-- zero-page (R122) -/
  | zp
  /-- zero-page,X (R113) -/
  | zpx
  /-- zero-page,Y (R114) -/
  | zpy
  /-- absolute (R115) -/
  | abs
  /-- absolute,X (R116) -/
  | abx
  /-- absolute,Y (R117) -/
  | aby
  /-- indirect (R118) -/
  | ind
  /-- (zero-page,X) (R119) -/
  | izx
  /-- (zero-page),Y (R120) -/
  | izy
  /-- relative (R121) -/
  | rel
  deriving DecidableEq, Repr

/-- The 56 mnemonics (30_encoding.md R104, R105). -/
inductive Mnemonic where
  | lda | ldx | ldy | sta | stx | sty | tax | tay | txa | tya | tsx | txs
  | adc | sbc | and | ora | eor | cmp | cpx | cpy | bit
  | asl | lsr | rol | ror | inc | dec | inx | iny | dex | dey
  | bcc | bcs | beq | bne | bmi | bpl | bvc | bvs | jmp | jsr | rts
  | pha | php | pla | plp | clc | sec | cli | sei | clv | cld | sed | nop | brk | rti
  deriving DecidableEq, Repr

/-- An instruction: one constructor per opcode byte of 30_encoding.md R105. `imm` is an 8-bit immediate, `zp` a zero-page
address, `rel` a signed displacement, `addr` and `ptr` the 16-bit operand `byte2 ++ byte1` (R101). -/
inductive Instr where
  -- 40_load_store_transfer.md
  | ldaImm (imm : Byte)
  | ldaZp (zp : Byte)
  | ldaZpx (zp : Byte)
  | ldaAbs (addr : Addr)
  | ldaAbx (addr : Addr)
  | ldaAby (addr : Addr)
  | ldaIzx (zp : Byte)
  | ldaIzy (zp : Byte)
  | ldxImm (imm : Byte)
  | ldxZp (zp : Byte)
  | ldxZpy (zp : Byte)
  | ldxAbs (addr : Addr)
  | ldxAby (addr : Addr)
  | ldyImm (imm : Byte)
  | ldyZp (zp : Byte)
  | ldyZpx (zp : Byte)
  | ldyAbs (addr : Addr)
  | ldyAbx (addr : Addr)
  | staZp (zp : Byte)
  | staZpx (zp : Byte)
  | staAbs (addr : Addr)
  | staAbx (addr : Addr)
  | staAby (addr : Addr)
  | staIzx (zp : Byte)
  | staIzy (zp : Byte)
  | stxZp (zp : Byte)
  | stxZpy (zp : Byte)
  | stxAbs (addr : Addr)
  | styZp (zp : Byte)
  | styZpx (zp : Byte)
  | styAbs (addr : Addr)
  | tax
  | tay
  | txa
  | tya
  | tsx
  | txs
  -- 41_arithmetic_logic.md
  | adcImm (imm : Byte)
  | adcZp (zp : Byte)
  | adcZpx (zp : Byte)
  | adcAbs (addr : Addr)
  | adcAbx (addr : Addr)
  | adcAby (addr : Addr)
  | adcIzx (zp : Byte)
  | adcIzy (zp : Byte)
  | sbcImm (imm : Byte)
  | sbcZp (zp : Byte)
  | sbcZpx (zp : Byte)
  | sbcAbs (addr : Addr)
  | sbcAbx (addr : Addr)
  | sbcAby (addr : Addr)
  | sbcIzx (zp : Byte)
  | sbcIzy (zp : Byte)
  | andImm (imm : Byte)
  | andZp (zp : Byte)
  | andZpx (zp : Byte)
  | andAbs (addr : Addr)
  | andAbx (addr : Addr)
  | andAby (addr : Addr)
  | andIzx (zp : Byte)
  | andIzy (zp : Byte)
  | oraImm (imm : Byte)
  | oraZp (zp : Byte)
  | oraZpx (zp : Byte)
  | oraAbs (addr : Addr)
  | oraAbx (addr : Addr)
  | oraAby (addr : Addr)
  | oraIzx (zp : Byte)
  | oraIzy (zp : Byte)
  | eorImm (imm : Byte)
  | eorZp (zp : Byte)
  | eorZpx (zp : Byte)
  | eorAbs (addr : Addr)
  | eorAbx (addr : Addr)
  | eorAby (addr : Addr)
  | eorIzx (zp : Byte)
  | eorIzy (zp : Byte)
  | cmpImm (imm : Byte)
  | cmpZp (zp : Byte)
  | cmpZpx (zp : Byte)
  | cmpAbs (addr : Addr)
  | cmpAbx (addr : Addr)
  | cmpAby (addr : Addr)
  | cmpIzx (zp : Byte)
  | cmpIzy (zp : Byte)
  | cpxImm (imm : Byte)
  | cpxZp (zp : Byte)
  | cpxAbs (addr : Addr)
  | cpyImm (imm : Byte)
  | cpyZp (zp : Byte)
  | cpyAbs (addr : Addr)
  | bitZp (zp : Byte)
  | bitAbs (addr : Addr)
  -- 42_shift_incdec.md
  | aslAcc
  | aslZp (zp : Byte)
  | aslZpx (zp : Byte)
  | aslAbs (addr : Addr)
  | aslAbx (addr : Addr)
  | lsrAcc
  | lsrZp (zp : Byte)
  | lsrZpx (zp : Byte)
  | lsrAbs (addr : Addr)
  | lsrAbx (addr : Addr)
  | rolAcc
  | rolZp (zp : Byte)
  | rolZpx (zp : Byte)
  | rolAbs (addr : Addr)
  | rolAbx (addr : Addr)
  | rorAcc
  | rorZp (zp : Byte)
  | rorZpx (zp : Byte)
  | rorAbs (addr : Addr)
  | rorAbx (addr : Addr)
  | incZp (zp : Byte)
  | incZpx (zp : Byte)
  | incAbs (addr : Addr)
  | incAbx (addr : Addr)
  | decZp (zp : Byte)
  | decZpx (zp : Byte)
  | decAbs (addr : Addr)
  | decAbx (addr : Addr)
  | inx
  | iny
  | dex
  | dey
  -- 43_branch_jump.md
  | bcc (rel : Byte)
  | bcs (rel : Byte)
  | beq (rel : Byte)
  | bne (rel : Byte)
  | bmi (rel : Byte)
  | bpl (rel : Byte)
  | bvc (rel : Byte)
  | bvs (rel : Byte)
  | jmpAbs (addr : Addr)
  | jmpInd (ptr : Addr)
  | jsr (addr : Addr)
  | rts
  -- 44_stack_flags_system.md
  | pha
  | php
  | pla
  | plp
  | clc
  | sec
  | cli
  | sei
  | clv
  | cld
  | sed
  | nop
  | brk
  | rti
  deriving DecidableEq, Repr

end Sys2Proof
end

