-- ==== Sys2Proof/WellFormed.lean ====
section
/-! DEFINITION. Well-formedness: of instructions, of cartridges and of the launch memories (20_memory.md R90, 10_state.md R46). -/

namespace Sys2Proof

/-- An instruction is well-formed when every operand fits its field (30_encoding.md R101). The types of the operands are the
fields' widths and every value is admitted, so there is nothing left to refuse. -/
def Instr.wf (_ : Instr) : Bool := true

/-- A cartridge is well-formed when its stores are canonical and no larger than its banks (10_state.md R46); `prgBanks` in
{1, 2} is in the type (20_memory.md R90). -/
abbrev Cartridge.wf (c : Cartridge) : Prop :=
  Machine.memWf (Machine.prgBankSize * Machine.prgCount c.prgBanks) c.prg ∧
  Machine.memWf (Machine.chrBankSize * c.chrBanks) c.chr ∧
  Machine.memWf Machine.trainerSize c.trainerBlock

end Sys2Proof
end

