-- ==== Sys2Proof/Decode.lean ====
section
/-! DEFINITION. Decoding and encoding (30_encoding.md R100 to R106): the opcode map as a table, the decoder, total on any
bytes, and the encoder. -/

namespace Sys2Proof

/-- What follows the opcode byte, with the instruction it completes (30_encoding.md R101). -/
inductive Form where
  /-- F1: nothing. -/
  | none (i : Instr)
  /-- F2: one byte. -/
  | byte (make : Byte → Instr)
  /-- F3: two bytes, the low one first. -/
  | word (make : Addr → Instr)

/-- A row of the opcode map: the entry of each of the four tables (30_encoding.md R104) and the instruction. -/
structure OpRow where
  opcode : Byte
  mnemonic : Mnemonic
  mode : Mode
  cycles : Nat
  penalty : Bool
  form : Form

/-- Row 0x of the opcode map (30_encoding.md R105). -/
def opRows0 : List OpRow :=
  [⟨0x00#8, .brk, .imp, 7, false, .none .brk⟩,
   ⟨0x01#8, .ora, .izx, 6, false, .byte .oraIzx⟩,
   ⟨0x05#8, .ora, .zp, 3, false, .byte .oraZp⟩,
   ⟨0x06#8, .asl, .zp, 5, false, .byte .aslZp⟩,
   ⟨0x08#8, .php, .imp, 3, false, .none .php⟩,
   ⟨0x09#8, .ora, .imm, 2, false, .byte .oraImm⟩,
   ⟨0x0A#8, .asl, .acc, 2, false, .none .aslAcc⟩,
   ⟨0x0D#8, .ora, .abs, 4, false, .word .oraAbs⟩,
   ⟨0x0E#8, .asl, .abs, 6, false, .word .aslAbs⟩]

/-- Row 1x of the opcode map (30_encoding.md R105). -/
def opRows1 : List OpRow :=
  [⟨0x10#8, .bpl, .rel, 2, false, .byte .bpl⟩,
   ⟨0x11#8, .ora, .izy, 5, true, .byte .oraIzy⟩,
   ⟨0x15#8, .ora, .zpx, 4, false, .byte .oraZpx⟩,
   ⟨0x16#8, .asl, .zpx, 6, false, .byte .aslZpx⟩,
   ⟨0x18#8, .clc, .imp, 2, false, .none .clc⟩,
   ⟨0x19#8, .ora, .aby, 4, true, .word .oraAby⟩,
   ⟨0x1D#8, .ora, .abx, 4, true, .word .oraAbx⟩,
   ⟨0x1E#8, .asl, .abx, 7, false, .word .aslAbx⟩]

/-- Row 2x of the opcode map (30_encoding.md R105). -/
def opRows2 : List OpRow :=
  [⟨0x20#8, .jsr, .abs, 6, false, .word .jsr⟩,
   ⟨0x21#8, .and, .izx, 6, false, .byte .andIzx⟩,
   ⟨0x24#8, .bit, .zp, 3, false, .byte .bitZp⟩,
   ⟨0x25#8, .and, .zp, 3, false, .byte .andZp⟩,
   ⟨0x26#8, .rol, .zp, 5, false, .byte .rolZp⟩,
   ⟨0x28#8, .plp, .imp, 4, false, .none .plp⟩,
   ⟨0x29#8, .and, .imm, 2, false, .byte .andImm⟩,
   ⟨0x2A#8, .rol, .acc, 2, false, .none .rolAcc⟩,
   ⟨0x2C#8, .bit, .abs, 4, false, .word .bitAbs⟩,
   ⟨0x2D#8, .and, .abs, 4, false, .word .andAbs⟩,
   ⟨0x2E#8, .rol, .abs, 6, false, .word .rolAbs⟩]

/-- Row 3x of the opcode map (30_encoding.md R105). -/
def opRows3 : List OpRow :=
  [⟨0x30#8, .bmi, .rel, 2, false, .byte .bmi⟩,
   ⟨0x31#8, .and, .izy, 5, true, .byte .andIzy⟩,
   ⟨0x35#8, .and, .zpx, 4, false, .byte .andZpx⟩,
   ⟨0x36#8, .rol, .zpx, 6, false, .byte .rolZpx⟩,
   ⟨0x38#8, .sec, .imp, 2, false, .none .sec⟩,
   ⟨0x39#8, .and, .aby, 4, true, .word .andAby⟩,
   ⟨0x3D#8, .and, .abx, 4, true, .word .andAbx⟩,
   ⟨0x3E#8, .rol, .abx, 7, false, .word .rolAbx⟩]

/-- Row 4x of the opcode map (30_encoding.md R105). -/
def opRows4 : List OpRow :=
  [⟨0x40#8, .rti, .imp, 6, false, .none .rti⟩,
   ⟨0x41#8, .eor, .izx, 6, false, .byte .eorIzx⟩,
   ⟨0x45#8, .eor, .zp, 3, false, .byte .eorZp⟩,
   ⟨0x46#8, .lsr, .zp, 5, false, .byte .lsrZp⟩,
   ⟨0x48#8, .pha, .imp, 3, false, .none .pha⟩,
   ⟨0x49#8, .eor, .imm, 2, false, .byte .eorImm⟩,
   ⟨0x4A#8, .lsr, .acc, 2, false, .none .lsrAcc⟩,
   ⟨0x4C#8, .jmp, .abs, 3, false, .word .jmpAbs⟩,
   ⟨0x4D#8, .eor, .abs, 4, false, .word .eorAbs⟩,
   ⟨0x4E#8, .lsr, .abs, 6, false, .word .lsrAbs⟩]

/-- Row 5x of the opcode map (30_encoding.md R105). -/
def opRows5 : List OpRow :=
  [⟨0x50#8, .bvc, .rel, 2, false, .byte .bvc⟩,
   ⟨0x51#8, .eor, .izy, 5, true, .byte .eorIzy⟩,
   ⟨0x55#8, .eor, .zpx, 4, false, .byte .eorZpx⟩,
   ⟨0x56#8, .lsr, .zpx, 6, false, .byte .lsrZpx⟩,
   ⟨0x58#8, .cli, .imp, 2, false, .none .cli⟩,
   ⟨0x59#8, .eor, .aby, 4, true, .word .eorAby⟩,
   ⟨0x5D#8, .eor, .abx, 4, true, .word .eorAbx⟩,
   ⟨0x5E#8, .lsr, .abx, 7, false, .word .lsrAbx⟩]

/-- Row 6x of the opcode map (30_encoding.md R105). -/
def opRows6 : List OpRow :=
  [⟨0x60#8, .rts, .imp, 6, false, .none .rts⟩,
   ⟨0x61#8, .adc, .izx, 6, false, .byte .adcIzx⟩,
   ⟨0x65#8, .adc, .zp, 3, false, .byte .adcZp⟩,
   ⟨0x66#8, .ror, .zp, 5, false, .byte .rorZp⟩,
   ⟨0x68#8, .pla, .imp, 4, false, .none .pla⟩,
   ⟨0x69#8, .adc, .imm, 2, false, .byte .adcImm⟩,
   ⟨0x6A#8, .ror, .acc, 2, false, .none .rorAcc⟩,
   ⟨0x6C#8, .jmp, .ind, 5, false, .word .jmpInd⟩,
   ⟨0x6D#8, .adc, .abs, 4, false, .word .adcAbs⟩,
   ⟨0x6E#8, .ror, .abs, 6, false, .word .rorAbs⟩]

/-- Row 7x of the opcode map (30_encoding.md R105). -/
def opRows7 : List OpRow :=
  [⟨0x70#8, .bvs, .rel, 2, false, .byte .bvs⟩,
   ⟨0x71#8, .adc, .izy, 5, true, .byte .adcIzy⟩,
   ⟨0x75#8, .adc, .zpx, 4, false, .byte .adcZpx⟩,
   ⟨0x76#8, .ror, .zpx, 6, false, .byte .rorZpx⟩,
   ⟨0x78#8, .sei, .imp, 2, false, .none .sei⟩,
   ⟨0x79#8, .adc, .aby, 4, true, .word .adcAby⟩,
   ⟨0x7D#8, .adc, .abx, 4, true, .word .adcAbx⟩,
   ⟨0x7E#8, .ror, .abx, 7, false, .word .rorAbx⟩]

/-- Row 8x of the opcode map (30_encoding.md R105). -/
def opRows8 : List OpRow :=
  [⟨0x81#8, .sta, .izx, 6, false, .byte .staIzx⟩,
   ⟨0x84#8, .sty, .zp, 3, false, .byte .styZp⟩,
   ⟨0x85#8, .sta, .zp, 3, false, .byte .staZp⟩,
   ⟨0x86#8, .stx, .zp, 3, false, .byte .stxZp⟩,
   ⟨0x88#8, .dey, .imp, 2, false, .none .dey⟩,
   ⟨0x8A#8, .txa, .imp, 2, false, .none .txa⟩,
   ⟨0x8C#8, .sty, .abs, 4, false, .word .styAbs⟩,
   ⟨0x8D#8, .sta, .abs, 4, false, .word .staAbs⟩,
   ⟨0x8E#8, .stx, .abs, 4, false, .word .stxAbs⟩]

/-- Row 9x of the opcode map (30_encoding.md R105). -/
def opRows9 : List OpRow :=
  [⟨0x90#8, .bcc, .rel, 2, false, .byte .bcc⟩,
   ⟨0x91#8, .sta, .izy, 6, false, .byte .staIzy⟩,
   ⟨0x94#8, .sty, .zpx, 4, false, .byte .styZpx⟩,
   ⟨0x95#8, .sta, .zpx, 4, false, .byte .staZpx⟩,
   ⟨0x96#8, .stx, .zpy, 4, false, .byte .stxZpy⟩,
   ⟨0x98#8, .tya, .imp, 2, false, .none .tya⟩,
   ⟨0x99#8, .sta, .aby, 5, false, .word .staAby⟩,
   ⟨0x9A#8, .txs, .imp, 2, false, .none .txs⟩,
   ⟨0x9D#8, .sta, .abx, 5, false, .word .staAbx⟩]

/-- Row Ax of the opcode map (30_encoding.md R105). -/
def opRowsA : List OpRow :=
  [⟨0xA0#8, .ldy, .imm, 2, false, .byte .ldyImm⟩,
   ⟨0xA1#8, .lda, .izx, 6, false, .byte .ldaIzx⟩,
   ⟨0xA2#8, .ldx, .imm, 2, false, .byte .ldxImm⟩,
   ⟨0xA4#8, .ldy, .zp, 3, false, .byte .ldyZp⟩,
   ⟨0xA5#8, .lda, .zp, 3, false, .byte .ldaZp⟩,
   ⟨0xA6#8, .ldx, .zp, 3, false, .byte .ldxZp⟩,
   ⟨0xA8#8, .tay, .imp, 2, false, .none .tay⟩,
   ⟨0xA9#8, .lda, .imm, 2, false, .byte .ldaImm⟩,
   ⟨0xAA#8, .tax, .imp, 2, false, .none .tax⟩,
   ⟨0xAC#8, .ldy, .abs, 4, false, .word .ldyAbs⟩,
   ⟨0xAD#8, .lda, .abs, 4, false, .word .ldaAbs⟩,
   ⟨0xAE#8, .ldx, .abs, 4, false, .word .ldxAbs⟩]

/-- Row Bx of the opcode map (30_encoding.md R105). -/
def opRowsB : List OpRow :=
  [⟨0xB0#8, .bcs, .rel, 2, false, .byte .bcs⟩,
   ⟨0xB1#8, .lda, .izy, 5, true, .byte .ldaIzy⟩,
   ⟨0xB4#8, .ldy, .zpx, 4, false, .byte .ldyZpx⟩,
   ⟨0xB5#8, .lda, .zpx, 4, false, .byte .ldaZpx⟩,
   ⟨0xB6#8, .ldx, .zpy, 4, false, .byte .ldxZpy⟩,
   ⟨0xB8#8, .clv, .imp, 2, false, .none .clv⟩,
   ⟨0xB9#8, .lda, .aby, 4, true, .word .ldaAby⟩,
   ⟨0xBA#8, .tsx, .imp, 2, false, .none .tsx⟩,
   ⟨0xBC#8, .ldy, .abx, 4, true, .word .ldyAbx⟩,
   ⟨0xBD#8, .lda, .abx, 4, true, .word .ldaAbx⟩,
   ⟨0xBE#8, .ldx, .aby, 4, true, .word .ldxAby⟩]

/-- Row Cx of the opcode map (30_encoding.md R105). -/
def opRowsC : List OpRow :=
  [⟨0xC0#8, .cpy, .imm, 2, false, .byte .cpyImm⟩,
   ⟨0xC1#8, .cmp, .izx, 6, false, .byte .cmpIzx⟩,
   ⟨0xC4#8, .cpy, .zp, 3, false, .byte .cpyZp⟩,
   ⟨0xC5#8, .cmp, .zp, 3, false, .byte .cmpZp⟩,
   ⟨0xC6#8, .dec, .zp, 5, false, .byte .decZp⟩,
   ⟨0xC8#8, .iny, .imp, 2, false, .none .iny⟩,
   ⟨0xC9#8, .cmp, .imm, 2, false, .byte .cmpImm⟩,
   ⟨0xCA#8, .dex, .imp, 2, false, .none .dex⟩,
   ⟨0xCC#8, .cpy, .abs, 4, false, .word .cpyAbs⟩,
   ⟨0xCD#8, .cmp, .abs, 4, false, .word .cmpAbs⟩,
   ⟨0xCE#8, .dec, .abs, 6, false, .word .decAbs⟩]

/-- Row Dx of the opcode map (30_encoding.md R105). -/
def opRowsD : List OpRow :=
  [⟨0xD0#8, .bne, .rel, 2, false, .byte .bne⟩,
   ⟨0xD1#8, .cmp, .izy, 5, true, .byte .cmpIzy⟩,
   ⟨0xD5#8, .cmp, .zpx, 4, false, .byte .cmpZpx⟩,
   ⟨0xD6#8, .dec, .zpx, 6, false, .byte .decZpx⟩,
   ⟨0xD8#8, .cld, .imp, 2, false, .none .cld⟩,
   ⟨0xD9#8, .cmp, .aby, 4, true, .word .cmpAby⟩,
   ⟨0xDD#8, .cmp, .abx, 4, true, .word .cmpAbx⟩,
   ⟨0xDE#8, .dec, .abx, 7, false, .word .decAbx⟩]

/-- Row Ex of the opcode map (30_encoding.md R105). -/
def opRowsE : List OpRow :=
  [⟨0xE0#8, .cpx, .imm, 2, false, .byte .cpxImm⟩,
   ⟨0xE1#8, .sbc, .izx, 6, false, .byte .sbcIzx⟩,
   ⟨0xE4#8, .cpx, .zp, 3, false, .byte .cpxZp⟩,
   ⟨0xE5#8, .sbc, .zp, 3, false, .byte .sbcZp⟩,
   ⟨0xE6#8, .inc, .zp, 5, false, .byte .incZp⟩,
   ⟨0xE8#8, .inx, .imp, 2, false, .none .inx⟩,
   ⟨0xE9#8, .sbc, .imm, 2, false, .byte .sbcImm⟩,
   ⟨0xEA#8, .nop, .imp, 2, false, .none .nop⟩,
   ⟨0xEC#8, .cpx, .abs, 4, false, .word .cpxAbs⟩,
   ⟨0xED#8, .sbc, .abs, 4, false, .word .sbcAbs⟩,
   ⟨0xEE#8, .inc, .abs, 6, false, .word .incAbs⟩]

/-- Row Fx of the opcode map (30_encoding.md R105). -/
def opRowsF : List OpRow :=
  [⟨0xF0#8, .beq, .rel, 2, false, .byte .beq⟩,
   ⟨0xF1#8, .sbc, .izy, 5, true, .byte .sbcIzy⟩,
   ⟨0xF5#8, .sbc, .zpx, 4, false, .byte .sbcZpx⟩,
   ⟨0xF6#8, .inc, .zpx, 6, false, .byte .incZpx⟩,
   ⟨0xF8#8, .sed, .imp, 2, false, .none .sed⟩,
   ⟨0xF9#8, .sbc, .aby, 4, true, .word .sbcAby⟩,
   ⟨0xFD#8, .sbc, .abx, 4, true, .word .sbcAbx⟩,
   ⟨0xFE#8, .inc, .abx, 7, false, .word .incAbx⟩]

/-- The opcode map (30_encoding.md R105): 151 rows; a byte without a row is undefined (R106). -/
def opTable : List OpRow :=
  opRows0 ++ opRows1 ++ opRows2 ++ opRows3 ++ opRows4 ++ opRows5 ++ opRows6 ++ opRows7 ++
  opRows8 ++ opRows9 ++ opRowsA ++ opRowsB ++ opRowsC ++ opRowsD ++ opRowsE ++ opRowsF

/-- The first row of a list for an opcode byte. -/
def findRow (op : Byte) : List OpRow → Option OpRow
  | [] => none
  | r :: rest => if r.opcode = op then some r else findRow op rest

/-- The table lookup of `Tick` (10_state.md R40); none where `base_cycles` is 0 (30_encoding.md R106). -/
def opRow (op : Byte) : Option OpRow := findRow op opTable

/-- Operand bytes by addressing mode (30_encoding.md R103 less the opcode byte). -/
def Mode.operandBytes : Mode → Nat
  | .imp => 0
  | .acc => 0
  | .imm => 1
  | .zp => 1
  | .zpx => 1
  | .zpy => 1
  | .rel => 1
  | .izx => 1
  | .izy => 1
  | .abs => 2
  | .abx => 2
  | .aby => 2
  | .ind => 2

/-- Why bytes decode to no instruction. -/
inductive DecodeError where
  /-- The first byte is one of the 105 undefined opcodes (30_encoding.md R106). -/
  | illegalOpcode (opcode : Byte)
  /-- The bytes end inside the instruction. -/
  | truncated
  deriving DecidableEq, Repr

/-- Read one instruction off a list of bytes: the instruction and the bytes after it. -/
def decode : List Byte → Except DecodeError (Instr × List Byte)
  | [] => .error .truncated
  | op :: rest =>
    match opRow op with
    | none => .error (.illegalOpcode op)
    | some row =>
      match row.form, rest with
      | .none i, bytes => .ok (i, bytes)
      | .byte make, b :: bytes => .ok (make b, bytes)
      | .word make, lo :: hi :: bytes => .ok (make (Machine.join hi lo), bytes)
      | _, _ => .error .truncated

/-- The bytes of an instruction in ascending address order (30_encoding.md R101, R105). -/
def encode : Instr → List Byte
  | .ldaImm imm => [0xA9#8, imm]
  | .ldaZp zp => [0xA5#8, zp]
  | .ldaZpx zp => [0xB5#8, zp]
  | .ldaAbs addr => [0xAD#8, Machine.loByte addr, Machine.hiByte addr]
  | .ldaAbx addr => [0xBD#8, Machine.loByte addr, Machine.hiByte addr]
  | .ldaAby addr => [0xB9#8, Machine.loByte addr, Machine.hiByte addr]
  | .ldaIzx zp => [0xA1#8, zp]
  | .ldaIzy zp => [0xB1#8, zp]
  | .ldxImm imm => [0xA2#8, imm]
  | .ldxZp zp => [0xA6#8, zp]
  | .ldxZpy zp => [0xB6#8, zp]
  | .ldxAbs addr => [0xAE#8, Machine.loByte addr, Machine.hiByte addr]
  | .ldxAby addr => [0xBE#8, Machine.loByte addr, Machine.hiByte addr]
  | .ldyImm imm => [0xA0#8, imm]
  | .ldyZp zp => [0xA4#8, zp]
  | .ldyZpx zp => [0xB4#8, zp]
  | .ldyAbs addr => [0xAC#8, Machine.loByte addr, Machine.hiByte addr]
  | .ldyAbx addr => [0xBC#8, Machine.loByte addr, Machine.hiByte addr]
  | .staZp zp => [0x85#8, zp]
  | .staZpx zp => [0x95#8, zp]
  | .staAbs addr => [0x8D#8, Machine.loByte addr, Machine.hiByte addr]
  | .staAbx addr => [0x9D#8, Machine.loByte addr, Machine.hiByte addr]
  | .staAby addr => [0x99#8, Machine.loByte addr, Machine.hiByte addr]
  | .staIzx zp => [0x81#8, zp]
  | .staIzy zp => [0x91#8, zp]
  | .stxZp zp => [0x86#8, zp]
  | .stxZpy zp => [0x96#8, zp]
  | .stxAbs addr => [0x8E#8, Machine.loByte addr, Machine.hiByte addr]
  | .styZp zp => [0x84#8, zp]
  | .styZpx zp => [0x94#8, zp]
  | .styAbs addr => [0x8C#8, Machine.loByte addr, Machine.hiByte addr]
  | .tax => [0xAA#8]
  | .tay => [0xA8#8]
  | .txa => [0x8A#8]
  | .tya => [0x98#8]
  | .tsx => [0xBA#8]
  | .txs => [0x9A#8]
  | .adcImm imm => [0x69#8, imm]
  | .adcZp zp => [0x65#8, zp]
  | .adcZpx zp => [0x75#8, zp]
  | .adcAbs addr => [0x6D#8, Machine.loByte addr, Machine.hiByte addr]
  | .adcAbx addr => [0x7D#8, Machine.loByte addr, Machine.hiByte addr]
  | .adcAby addr => [0x79#8, Machine.loByte addr, Machine.hiByte addr]
  | .adcIzx zp => [0x61#8, zp]
  | .adcIzy zp => [0x71#8, zp]
  | .sbcImm imm => [0xE9#8, imm]
  | .sbcZp zp => [0xE5#8, zp]
  | .sbcZpx zp => [0xF5#8, zp]
  | .sbcAbs addr => [0xED#8, Machine.loByte addr, Machine.hiByte addr]
  | .sbcAbx addr => [0xFD#8, Machine.loByte addr, Machine.hiByte addr]
  | .sbcAby addr => [0xF9#8, Machine.loByte addr, Machine.hiByte addr]
  | .sbcIzx zp => [0xE1#8, zp]
  | .sbcIzy zp => [0xF1#8, zp]
  | .andImm imm => [0x29#8, imm]
  | .andZp zp => [0x25#8, zp]
  | .andZpx zp => [0x35#8, zp]
  | .andAbs addr => [0x2D#8, Machine.loByte addr, Machine.hiByte addr]
  | .andAbx addr => [0x3D#8, Machine.loByte addr, Machine.hiByte addr]
  | .andAby addr => [0x39#8, Machine.loByte addr, Machine.hiByte addr]
  | .andIzx zp => [0x21#8, zp]
  | .andIzy zp => [0x31#8, zp]
  | .oraImm imm => [0x09#8, imm]
  | .oraZp zp => [0x05#8, zp]
  | .oraZpx zp => [0x15#8, zp]
  | .oraAbs addr => [0x0D#8, Machine.loByte addr, Machine.hiByte addr]
  | .oraAbx addr => [0x1D#8, Machine.loByte addr, Machine.hiByte addr]
  | .oraAby addr => [0x19#8, Machine.loByte addr, Machine.hiByte addr]
  | .oraIzx zp => [0x01#8, zp]
  | .oraIzy zp => [0x11#8, zp]
  | .eorImm imm => [0x49#8, imm]
  | .eorZp zp => [0x45#8, zp]
  | .eorZpx zp => [0x55#8, zp]
  | .eorAbs addr => [0x4D#8, Machine.loByte addr, Machine.hiByte addr]
  | .eorAbx addr => [0x5D#8, Machine.loByte addr, Machine.hiByte addr]
  | .eorAby addr => [0x59#8, Machine.loByte addr, Machine.hiByte addr]
  | .eorIzx zp => [0x41#8, zp]
  | .eorIzy zp => [0x51#8, zp]
  | .cmpImm imm => [0xC9#8, imm]
  | .cmpZp zp => [0xC5#8, zp]
  | .cmpZpx zp => [0xD5#8, zp]
  | .cmpAbs addr => [0xCD#8, Machine.loByte addr, Machine.hiByte addr]
  | .cmpAbx addr => [0xDD#8, Machine.loByte addr, Machine.hiByte addr]
  | .cmpAby addr => [0xD9#8, Machine.loByte addr, Machine.hiByte addr]
  | .cmpIzx zp => [0xC1#8, zp]
  | .cmpIzy zp => [0xD1#8, zp]
  | .cpxImm imm => [0xE0#8, imm]
  | .cpxZp zp => [0xE4#8, zp]
  | .cpxAbs addr => [0xEC#8, Machine.loByte addr, Machine.hiByte addr]
  | .cpyImm imm => [0xC0#8, imm]
  | .cpyZp zp => [0xC4#8, zp]
  | .cpyAbs addr => [0xCC#8, Machine.loByte addr, Machine.hiByte addr]
  | .bitZp zp => [0x24#8, zp]
  | .bitAbs addr => [0x2C#8, Machine.loByte addr, Machine.hiByte addr]
  | .aslAcc => [0x0A#8]
  | .aslZp zp => [0x06#8, zp]
  | .aslZpx zp => [0x16#8, zp]
  | .aslAbs addr => [0x0E#8, Machine.loByte addr, Machine.hiByte addr]
  | .aslAbx addr => [0x1E#8, Machine.loByte addr, Machine.hiByte addr]
  | .lsrAcc => [0x4A#8]
  | .lsrZp zp => [0x46#8, zp]
  | .lsrZpx zp => [0x56#8, zp]
  | .lsrAbs addr => [0x4E#8, Machine.loByte addr, Machine.hiByte addr]
  | .lsrAbx addr => [0x5E#8, Machine.loByte addr, Machine.hiByte addr]
  | .rolAcc => [0x2A#8]
  | .rolZp zp => [0x26#8, zp]
  | .rolZpx zp => [0x36#8, zp]
  | .rolAbs addr => [0x2E#8, Machine.loByte addr, Machine.hiByte addr]
  | .rolAbx addr => [0x3E#8, Machine.loByte addr, Machine.hiByte addr]
  | .rorAcc => [0x6A#8]
  | .rorZp zp => [0x66#8, zp]
  | .rorZpx zp => [0x76#8, zp]
  | .rorAbs addr => [0x6E#8, Machine.loByte addr, Machine.hiByte addr]
  | .rorAbx addr => [0x7E#8, Machine.loByte addr, Machine.hiByte addr]
  | .incZp zp => [0xE6#8, zp]
  | .incZpx zp => [0xF6#8, zp]
  | .incAbs addr => [0xEE#8, Machine.loByte addr, Machine.hiByte addr]
  | .incAbx addr => [0xFE#8, Machine.loByte addr, Machine.hiByte addr]
  | .decZp zp => [0xC6#8, zp]
  | .decZpx zp => [0xD6#8, zp]
  | .decAbs addr => [0xCE#8, Machine.loByte addr, Machine.hiByte addr]
  | .decAbx addr => [0xDE#8, Machine.loByte addr, Machine.hiByte addr]
  | .inx => [0xE8#8]
  | .iny => [0xC8#8]
  | .dex => [0xCA#8]
  | .dey => [0x88#8]
  | .bcc rel => [0x90#8, rel]
  | .bcs rel => [0xB0#8, rel]
  | .beq rel => [0xF0#8, rel]
  | .bne rel => [0xD0#8, rel]
  | .bmi rel => [0x30#8, rel]
  | .bpl rel => [0x10#8, rel]
  | .bvc rel => [0x50#8, rel]
  | .bvs rel => [0x70#8, rel]
  | .jmpAbs addr => [0x4C#8, Machine.loByte addr, Machine.hiByte addr]
  | .jmpInd ptr => [0x6C#8, Machine.loByte ptr, Machine.hiByte ptr]
  | .jsr addr => [0x20#8, Machine.loByte addr, Machine.hiByte addr]
  | .rts => [0x60#8]
  | .pha => [0x48#8]
  | .php => [0x08#8]
  | .pla => [0x68#8]
  | .plp => [0x28#8]
  | .clc => [0x18#8]
  | .sec => [0x38#8]
  | .cli => [0x58#8]
  | .sei => [0x78#8]
  | .clv => [0xB8#8]
  | .cld => [0xD8#8]
  | .sed => [0xF8#8]
  | .nop => [0xEA#8]
  | .brk => [0x00#8]
  | .rti => [0x40#8]

/-- The instruction the decoder reads from an instruction whose bits are `w`, numbered as spec/opcode_table.json numbers
them: bit 0 is the least significant bit of the opcode byte, and every bit from `nbits` on is 0. -/
def decodeTableWord (nbits w : Nat) : Option Instr :=
  match decode (Machine.tableBytes nbits w) with
  | .ok (i, _) => some i
  | .error _ => none

end Sys2Proof
end

