-- ==== Sys2Proof/Machine/State.lean ====
section
/-! DEFINITION. All state of the machine (10_state.md R20 to R49), the reasons a step can stop (60_exceptions.md R300), and the
state right after reset. -/

namespace Sys2Proof.Machine

/-- The status register `P` (10_state.md R27), bit 7 first. Software sees it only as the byte `PackP` makes (R33), so its
eight positions are kept apart. -/
@[ext]
structure Status where
  n : Bool
  v : Bool
  u : Bool
  b : Bool
  d : Bool
  i : Bool
  z : Bool
  c : Bool
  deriving DecidableEq, Repr

/-- The scratch of the instruction in flight (10_state.md R20, R40, R42), written anew by every fetch. -/
@[ext]
structure Scratch where
  opcode : Byte
  mode : Mode
  /-- `M`, the fetched operand. -/
  m : Byte
  /-- `EA`, the effective address. -/
  ea : Addr
  /-- `page_crossed` (R40). -/
  pageCrossed : Bool
  /-- `extra`, the branch cycles of this tick (R40). -/
  extra : Nat
  deriving DecidableEq, Repr

/-- The video timing unit (10_state.md R47, 49_video_timing_unit.md R251). -/
@[ext]
structure Vtu where
  cycle : Nat
  scanline : Nat
  ctrl : Byte
  mask : Byte
  status : Byte
  oamAddr : Byte
  /-- The write toggle (49_video_timing_unit.md R269). -/
  w : Bool
  /-- The delayed-read buffer (49_video_timing_unit.md R265). -/
  rbuf : Byte
  /-- The current composite address (49_video_timing_unit.md R268). -/
  v : Loopy
  /-- The temporary composite address (49_video_timing_unit.md R268). -/
  t : Loopy
  nt : Memory
  pal : Memory
  oam : Memory
  deriving DecidableEq, Repr

/-- The operations the host may invoke between two master-clock steps (60_exceptions.md R309). -/
inductive Signal where
  /-- `Irq()` (60_exceptions.md R305) -/
  | irq
  /-- `Nmi()` (60_exceptions.md R306) -/
  | nmi
  /-- `Reset()` (70_reset_and_hazards.md R342) -/
  | reset
  deriving DecidableEq, Repr

/-- The faults of 60_exceptions.md R300, each with the information R300 records. A fault stops the whole machine for good
(R301); the outcome shows nothing but the record, so stopping is safe. -/
inductive Fault where
  /-- Raised by the processor's fetch when the opcode byte has no table entry (R302): the byte, the address it was fetched
  from. Safe: the spec's own stop. -/
  | illegalOpcode (opcode : Byte) (address : Addr)
  /-- Raised by a processor write to VTU register 2 (R303): the value, the bus address. Safe: the spec's own stop. -/
  | readOnlyRegisterWrite (value : Byte) (address : Addr)
  /-- Raised by a bus access made with an address above 0xFFFF (20_memory.md R69): only the natural-number entries of the bus
  can make one. Safe: the spec's own stop. -/
  | busAddressOutOfRange (address : Nat)
  /-- Raised by an access to the ROM window or to cartridge-dependent VTU space with no cartridge inserted (20_memory.md R91;
  log 9): the bus or VTU address. Safe: the spec's own stop. -/
  | missingCartridge (address : Nat)
  /-- Raised by a data-port read of graphics ROM beyond the cartridge's banks (20_memory.md R86): the VTU address. Safe: the
  spec's own stop. -/
  | chrOutOfRange (address : VAddr)
  deriving DecidableEq, Repr

/-- Why an instruction has no meaning. -/
inductive Refusal where
  /-- Raised by `exec` for an instruction that is not modelled yet. Safe: the run stops. No arm of this model raises it. -/
  | notModelled (mnemonic : String)
  deriving DecidableEq, Repr

/-- The whole machine. -/
@[ext]
structure State where
  /-- `PC` (R24). -/
  pc : Addr
  /-- `A` (R21). -/
  a : Byte
  /-- `X` (R22). -/
  x : Byte
  /-- `Y` (R23). -/
  y : Byte
  /-- `SP` (R25). -/
  sp : Byte
  /-- `P` (R27). -/
  p : Status
  /-- `cyc`, the remaining-cycle counter (R41). -/
  cyc : Nat
  /-- The scratch fields (R42). -/
  scratch : Scratch
  /-- The machine-wide stop record (R44). -/
  fault : Option Fault
  /-- Work RAM (R46; 20_memory.md R64). -/
  ram : Memory
  /-- Plain RAM (R46; 20_memory.md R66). -/
  xram : Memory
  /-- The video timing unit (R47). -/
  vtu : Vtu
  /-- The inserted cartridge, absent until insertion (R48). -/
  cart : Option Cartridge
  /-- The parameters the spec leaves OPEN (00_scope.md R7, R8). -/
  config : Config
  /-- The MODEL's own field: the host's calls still to come, the head just before the next master-clock step (60_exceptions.md
  R309; log 8). -/
  hostCalls : List (List Signal)
  deriving DecidableEq, Repr

/-! The named updates: one per field that a step writes. Their projections are in Laws/State.lean. -/

/-- Replace `pc`. -/
def State.setPc (s : State) (new : Addr) : State := { s with pc := new }
/-- Replace `a`. -/
def State.setA (s : State) (new : Byte) : State := { s with a := new }
/-- Replace `x`. -/
def State.setX (s : State) (new : Byte) : State := { s with x := new }
/-- Replace `y`. -/
def State.setY (s : State) (new : Byte) : State := { s with y := new }
/-- Replace `sp`. -/
def State.setSp (s : State) (new : Byte) : State := { s with sp := new }
/-- Replace `p`. -/
def State.setP (s : State) (new : Status) : State := { s with p := new }
/-- Replace `cyc`. -/
def State.setCyc (s : State) (new : Nat) : State := { s with cyc := new }
/-- Replace `scratch`. -/
def State.setScratch (s : State) (new : Scratch) : State := { s with scratch := new }
/-- Replace `ram`. -/
def State.setRam (s : State) (new : Memory) : State := { s with ram := new }
/-- Replace `xram`. -/
def State.setXram (s : State) (new : Memory) : State := { s with xram := new }
/-- Replace `vtu`. -/
def State.setVtu (s : State) (new : Vtu) : State := { s with vtu := new }
/-- Replace `hostCalls`. -/
def State.setHostCalls (s : State) (new : List (List Signal)) : State := { s with hostCalls := new }
/-- Record a fault (10_state.md R44). -/
def State.setFault (s : State) (new : Option Fault) : State := { s with fault := new }
/-- Replace the cartridge: insertion (70_reset_and_hazards.md R346). No step does it. -/
def State.setCart (s : State) (new : Option Cartridge) : State := { s with cart := new }

/-- What an operation answers: a value, or the stop of the machine. -/
abbrev Res (α : Type) := Host.Outcome α Fault Refusal

/-- The flags at power-on under the recommended `P0`: I = 1, the other five 0, and U = 1, B = 0 (10_state.md R49; log 1). -/
def defaultStatus : Status :=
  { n := false, v := false, u := true, b := false, d := false, i := true, z := false, c := false }

/-- The scratch before the first fetch: any value (10_state.md R49, 93_implementation_defined.md U27; log 6). -/
def startScratch : Scratch :=
  { opcode := 0#8, mode := .imp, m := 0#8, ea := 0#16, pageCrossed := false, extra := 0 }

/-- The VTU at power-on (10_state.md R49), its memories with nothing listed (log 2). -/
def Vtu.powerOn : Vtu :=
  { cycle := 0, scanline := 0, ctrl := 0#8, mask := 0#8, status := 0#8, oamAddr := 0#8, w := false, rbuf := 0#8
    v := 0#15, t := 0#15, nt := [], pal := [], oam := [] }

/-- The cartridge of `State.reset`: two program banks and one graphics bank with nothing listed, Horizontal (the default
cartridge of 95_test_vectors.md section 0). DESIGN CHOICE (log 3): it holds no program. -/
def blankCartridge : Cartridge :=
  { prgBanks := .two, prg := [], chrBanks := 1, chr := [], mirroring := .horizontal
    battery := false, trainer := false, trainerBlock := [] }

/-- The recommended parameters (70_reset_and_hazards.md R341; log 4, log 5). -/
def recommendedConfig : Config := { intCycles := 7, ntFold := .rowPairs }

/-- The machine right after reset: the launch state of 70_reset_and_hazards.md R346 under the recommended defaults of R341
(log 1 to log 6) and the blank cartridge, whose reset vector word is 0x0000. -/
def State.reset : State :=
  { pc := 0x0000#16, a := 0x00#8, x := 0x00#8, y := 0x00#8, sp := 0xFD#8, p := defaultStatus, cyc := 7
    scratch := startScratch, fault := none, ram := [], xram := [], vtu := Vtu.powerOn
    cart := some blankCartridge, config := recommendedConfig, hostCalls := [] }

end Sys2Proof.Machine
end

