-- ==== Sys2Proof/Machine/Flags.lean ====
section
/-! DEFINITION. Every flag and result computation (10_state.md R27 to R36, 41_arithmetic_logic.md, 42_shift_incdec.md), as pure
functions of bytes and the status register. -/

namespace Sys2Proof.Machine

/-- `SetZN` (00_scope.md R11). -/
def setZN (v : Byte) (p : Status) : Status := { p with z := decide (v = 0#8), n := bit v 7 }

/-- A result byte with its Z and N: the shape of every operation that changes no other flag. -/
def plainResult (r : Byte) (p : Status) : Byte × Status := (r, setZN r p)

/-- ADC (41_arithmetic_logic.md R160): a 9-bit sum; D is ignored (10_state.md R31). -/
def addCarry (a m : Byte) (p : Status) : Byte × Status :=
  let sum : BitVec 9 := a.zeroExtend 9 + m.zeroExtend 9 + (BitVec.ofBool p.c).zeroExtend 9
  let r : Byte := sum.extractLsb' 0 8
  (r, setZN r { p with c := sum.getLsbD 8, v := bit ((a ^^^ r) &&& (m ^^^ r)) 7 })

/-- SBC (R161): ADC of the complemented operand. -/
def subCarry (a m : Byte) (p : Status) : Byte × Status := addCarry a (m ^^^ 0xFF#8) p

/-- AND (R162). -/
def andByte (a m : Byte) (p : Status) : Byte × Status := plainResult (a &&& m) p

/-- ORA (R163). -/
def orByte (a m : Byte) (p : Status) : Byte × Status := plainResult (a ||| m) p

/-- EOR (R164). -/
def eorByte (a m : Byte) (p : Status) : Byte × Status := plainResult (a ^^^ m) p

/-- The flags of a compare (R165 to R167): C is "no borrow", Z and N from the difference, V unchanged. -/
def compareFlags (reg m : Byte) (p : Status) : Status := setZN (reg - m) { p with c := decide (m.toNat ≤ reg.toNat) }

/-- The flags of BIT (R168): Z from the conjunction, N and V from the operand. -/
def bitFlags (a m : Byte) (p : Status) : Status :=
  { p with z := decide (a &&& m = 0#8), n := bit m 7, v := bit m 6 }

/-- ASL (42_shift_incdec.md R180). -/
def shiftLeft (v : Byte) (p : Status) : Byte × Status :=
  plainResult (v <<< 1) { p with c := bit v 7 }

/-- LSR (R181). -/
def shiftRight (v : Byte) (p : Status) : Byte × Status :=
  plainResult (v >>> 1) { p with c := bit v 0 }

/-- ROL (R182): the old carry enters bit 0. -/
def rotateLeft (v : Byte) (p : Status) : Byte × Status :=
  plainResult (v.extractLsb' 0 7 ++ BitVec.ofBool p.c) { p with c := bit v 7 }

/-- ROR (R183): the old carry enters bit 7. -/
def rotateRight (v : Byte) (p : Status) : Byte × Status :=
  plainResult (BitVec.ofBool p.c ++ v.extractLsb' 1 7) { p with c := bit v 0 }

/-- INC, INX, INY (R184, R186, R187): wraps, C and V unchanged. -/
def increment (v : Byte) (p : Status) : Byte × Status := plainResult (v + 1#8) p

/-- DEC, DEX, DEY (R185, R188, R189). -/
def decrement (v : Byte) (p : Status) : Byte × Status := plainResult (v - 1#8) p

end Sys2Proof.Machine
end

