-- ==== Sys2Proof/Machine/Res.lean ====
section
/-! DEFINITION. Sequencing of operations that may stop the machine: a fault abandons everything after it
(60_exceptions.md R301). -/

namespace Sys2Proof.Machine

/-- Run `f` on the value of `r`; a stop stays a stop. -/
def Res.andThen {α β : Type} (r : Res α) (f : α → Res β) : Res β :=
  match r with
  | .next v => f v
  | .fault e => .fault e
  | .refused e => .refused e

/-- Apply a function that cannot stop. -/
def Res.map {α β : Type} (r : Res α) (f : α → β) : Res β :=
  r.andThen fun v => .next (f v)

end Sys2Proof.Machine
end

