-- ==== Sys2Proof/Machine/Vtu.lean ====
section
/-! DEFINITION. The video timing unit (49_video_timing_unit.md): its VRAM, its eight registers and its counters. Every operation
here sees only the VTU, the cartridge and the configuration. -/

namespace Sys2Proof.Machine

/-! VRAM: the VTU address space. -/

/-- `ReadCHR` (20_memory.md R86): a direct indexed read; an index beyond the banks faults. -/
def readChr (c : Cartridge) (a : VAddr) : Res Byte :=
  if a.toNat < chrBankSize * c.chrBanks then .next (memRead c.chr a.toNat) else .fault (.chrOutOfRange a)

/-- `NtIndex` (R272): the half of the quadrant `a[11:10]`, then the offset `a[9:0]`. -/
def ntIndex (fold : NtFold) (mirroring : Mirroring) (a : VAddr) : Nat :=
  ntHalf fold mirroring (a.extractLsb' 10 2) * 0x400 + (a.extractLsb' 0 10).toNat

/-- `PalIndex` (R273): 32 bytes, the four slots 0x10, 0x14, 0x18, 0x1C aliased to their low counterparts. -/
def palIndex (a : VAddr) : Nat :=
  let i := a.toNat % palSize
  if i = 0x10 ∨ i = 0x14 ∨ i = 0x18 ∨ i = 0x1C then i - 0x10 else i

/-- `VramRead` (R270). Pattern and nametable space need the cartridge (20_memory.md R91; log 9). -/
def vramRead (cart : Option Cartridge) (cfg : Config) (u : Vtu) (a : VAddr) : Res Byte :=
  if a.toNat < palBase then
    match cart with
    | none => .fault (.missingCartridge a.toNat)
    | some c => if a.toNat < ntBase then readChr c a else .next (memRead u.nt (ntIndex cfg.ntFold c.mirroring a))
  else .next (memRead u.pal (palIndex a))

/-- `VramWrite` (R271): a write below the nametables is ignored. -/
def vramWrite (cart : Option Cartridge) (cfg : Config) (u : Vtu) (a : VAddr) (value : Byte) : Res Vtu :=
  if a.toNat < palBase then
    match cart with
    | none => .fault (.missingCartridge a.toNat)
    | some c =>
      if a.toNat < ntBase then .next u
      else .next { u with nt := memWrite u.nt (ntIndex cfg.ntFold c.mirroring a) value }
  else .next { u with pal := memWrite u.pal (palIndex a) value }

/-! The register file. -/

/-- The eight registers, in address order (R255). -/
inductive Port where
  | control
  | mask
  | status
  | oamAddress
  | oamData
  | scroll
  | address
  | data
  deriving DecidableEq, Repr

/-- The register at a bus address of the window: `addr mod 8` (R255; 20_memory.md R65). -/
def portOf (a : Addr) : Port :=
  match a.toNat % 8 with
  | 0 => .control
  | 1 => .mask
  | 2 => .status
  | 3 => .oamAddress
  | 4 => .oamData
  | 5 => .scroll
  | 6 => .address
  | _ => .data

/-- `inc` (R274). -/
def vramStep (ctrl : Byte) : Loopy := if bit ctrl 2 then 32#15 else 1#15

/-- The advance of `v` after a data-port access (R274): 15 bits, so modulo 0x8000. -/
def Vtu.advance (u : Vtu) : Vtu := { u with v := u.v + vramStep u.ctrl }

/-- `ReadStatus` (R260): the top 3 bits of `status` with the low 5 of the buffer; VBlank and the toggle are cleared. -/
def readStatus (u : Vtu) : Byte × Vtu :=
  ((u.status &&& 0xE0#8) ||| (u.rbuf &&& 0x1F#8), { u with status := withBit7 u.status false, w := false })

/-- `ReadData` (R265): the buffer is refilled, palette space answers at once, anything else with the old buffer. -/
def readData (cart : Option Cartridge) (cfg : Config) (u : Vtu) : Res (Byte × Vtu) :=
  (vramRead cart cfg u (vramAddr u.v)).map fun byte =>
    (if palBase ≤ (vramAddr u.v).toNat then byte else u.rbuf, ({ u with rbuf := byte } : Vtu).advance)

/-- `VtuReadRegister` (R256): the other six read as zero and change nothing. -/
def readPort (port : Port) (cart : Option Cartridge) (cfg : Config) (u : Vtu) : Res (Byte × Vtu) :=
  match port with
  | .status => .next (readStatus u)
  | .data => readData cart cfg u
  | .control => .next (0#8, u)
  | .mask => .next (0#8, u)
  | .oamAddress => .next (0#8, u)
  | .oamData => .next (0#8, u)
  | .scroll => .next (0#8, u)
  | .address => .next (0#8, u)

/-- Register 0 (R258): `ctrl`, and `t[11:10]` from bits 1 and 0. -/
def writeControl (value : Byte) (u : Vtu) : Vtu :=
  { u with ctrl := value, t := u.t.extractLsb' 12 3 ++ value.extractLsb' 0 2 ++ u.t.extractLsb' 0 10 }

/-- Register 1 (R259). -/
def writeMask (value : Byte) (u : Vtu) : Vtu := { u with mask := value }

/-- Register 3 (R262). -/
def writeOamAddress (value : Byte) (u : Vtu) : Vtu := { u with oamAddr := value }

/-- Register 4 (R263). -/
def writeOamData (value : Byte) (u : Vtu) : Vtu :=
  { u with oam := memWrite u.oam u.oamAddr.toNat value, oamAddr := u.oamAddr + 1#8 }

/-- Register 5 (R264): coarse-x, then coarse-y and fine-y. -/
def writeScroll (value : Byte) (u : Vtu) : Vtu :=
  if u.w then
    { u with t := value.extractLsb' 0 3 ++ u.t.extractLsb' 10 2 ++ value.extractLsb' 3 5 ++ u.t.extractLsb' 0 5, w := false }
  else
    { u with t := u.t.extractLsb' 5 10 ++ value.extractLsb' 3 5, w := true }

/-- Register 6 (R267): the high six bits, then the low eight and `v <- t`. -/
def writeAddress (value : Byte) (u : Vtu) : Vtu :=
  if u.w then
    { u with t := u.t.extractLsb' 8 7 ++ value, v := u.t.extractLsb' 8 7 ++ value, w := false }
  else
    { u with t := 0#1 ++ value.extractLsb' 0 6 ++ u.t.extractLsb' 0 8, w := true }

/-- Register 7 (R266): a VRAM write, then the advance. -/
def writeData (cart : Option Cartridge) (cfg : Config) (value : Byte) (u : Vtu) : Res Vtu :=
  (vramWrite cart cfg u (vramAddr u.v) value).map Vtu.advance

/-- `VtuWriteRegister` (R257); register 2 is read-only and faults with the bus address of the access (R261, 60_exceptions.md
R303). -/
def writePort (port : Port) (busAddress : Addr) (cart : Option Cartridge) (cfg : Config) (value : Byte) (u : Vtu) : Res Vtu :=
  match port with
  | .control => .next (writeControl value u)
  | .mask => .next (writeMask value u)
  | .status => .fault (.readOnlyRegisterWrite value busAddress)
  | .oamAddress => .next (writeOamAddress value u)
  | .oamData => .next (writeOamData value u)
  | .scroll => .next (writeScroll value u)
  | .address => .next (writeAddress value u)
  | .data => writeData cart cfg value u

/-! The counters. -/

/-- The counting part of `TickClock` (R253): the VTU after one tick. -/
def Vtu.count (u : Vtu) : Vtu :=
  if u.cycle + 1 < cyclesPerLine then { u with cycle := u.cycle + 1 }
  else if linesPerFrame ≤ u.scanline + 1 then
    { u with cycle := 0, scanline := 0, status := withBit7 u.status false }
  else if u.scanline + 1 = vblankLine then
    { u with cycle := 0, scanline := u.scanline + 1, status := withBit7 u.status true }
  else { u with cycle := 0, scanline := u.scanline + 1 }

/-- Whether this tick enters the first post-visible scanline with the NMI enabled (R253, R254). -/
def Vtu.raisesNmi (u : Vtu) : Bool :=
  decide (cyclesPerLine ≤ u.cycle + 1) && decide (u.scanline + 1 = vblankLine) && bit u.ctrl 7

end Sys2Proof.Machine
end

