-- ==== Sys2Proof/Machine/Ops.lean ====
section
/-! DEFINITION. The named operations over memory and registers: the bus (20_memory.md R60 to R75), fetching, the stack, the
status byte (00_scope.md R11), taking an interrupt and returning from one (60_exceptions.md R305 to R312), and the three
signals (R305, R306, 70_reset_and_hazards.md R342). -/

namespace Sys2Proof.Machine

/-! The bus. -/

/-- The backing store of a bus address (20_memory.md R63). -/
inductive Region where
  /-- Work RAM, at an index below 0x0800 (R64). -/
  | ram (i : Nat)
  /-- A VTU register (R65). -/
  | port (p : Port)
  /-- Plain RAM, at an index below 0x4000 (R66). -/
  | xram (i : Nat)
  /-- The cartridge ROM window (R67). -/
  | rom
  deriving DecidableEq, Repr

/-- The total address decode (20_memory.md R60, R61). -/
def region (a : Addr) : Region :=
  if a.toNat < portBase then .ram (a.toNat % ramSize)
  else if a.toNat < xramBase then .port (portOf a)
  else if a.toNat < romBase then .xram (a.toNat - xramBase)
  else .rom

/-- `MemRead(addr, 1)` (20_memory.md R61). -/
def busRead (a : Addr) (s : State) : Res (Byte × State) :=
  match region a with
  | .ram i => .next (memRead s.ram i, s)
  | .port p => (readPort p s.cart s.config s.vtu).map fun r => (r.1, s.setVtu r.2)
  | .xram i => .next (memRead s.xram i, s)
  | .rom =>
    match s.cart with
    | none => .fault (.missingCartridge a.toNat)
    | some c => .next (readPrg c a, s)

/-- `MemWrite(addr, 1, v)` (20_memory.md R62); ROM ignores the write (R68), an absent cartridge faults (R91). -/
def busWrite (a : Addr) (v : Byte) (s : State) : Res State :=
  match region a with
  | .ram i => .next (s.setRam (memWrite s.ram i v))
  | .port p => (writePort p a s.cart s.config v s.vtu).map s.setVtu
  | .xram i => .next (s.setXram (memWrite s.xram i v))
  | .rom =>
    match s.cart with
    | none => .fault (.missingCartridge a.toNat)
    | some _ => .next s

/-- The bus read of a caller whose addresses are wider than 16 bits: an address above 0xFFFF faults, it is not reduced
(20_memory.md R69). -/
def busReadAt (address : Nat) (s : State) : Res (Byte × State) :=
  if address < 0x10000 then busRead (BitVec.ofNat 16 address) s else .fault (.busAddressOutOfRange address)

/-- The bus write of such a caller (20_memory.md R69). -/
def busWriteAt (address : Nat) (v : Byte) (s : State) : Res State :=
  if address < 0x10000 then busWrite (BitVec.ofNat 16 address) v s else .fault (.busAddressOutOfRange address)

/-! Fetching and 16-bit reads (00_scope.md R11). -/

/-- `Fetch8` (R11); `PC` wraps modulo 0x10000 (10_state.md R26). -/
def fetch8 (s : State) : Res (Byte × State) :=
  (busRead s.pc s).map fun r => (r.1, r.2.setPc (r.2.pc + 1#16))

/-- Fetch `k` bytes in ascending address order (20_memory.md R74). -/
def fetchBytes : Nat → State → Res (List Byte × State)
  | 0, s => .next ([], s)
  | k + 1, s => (fetch8 s).andThen fun r => (fetchBytes k r.2).map fun q => (r.1 :: q.1, q.2)

/-- Two byte reads that make a word, the low byte first (20_memory.md R70, R71). -/
def readPair (loAddr hiAddr : Addr) (s : State) : Res (Addr × State) :=
  (busRead loAddr s).andThen fun lo => (busRead hiAddr lo.2).map fun hi => (join hi.1 lo.1, hi.2)

/-- `Read16` (R11). -/
def read16 (a : Addr) (s : State) : Res (Addr × State) := readPair a (a + 1#16) s

/-! The stack (10_state.md R25, 00_scope.md R11). -/

/-- The bus address of the byte `SP` points at. -/
def stackAddr (sp : Byte) : Addr := stackBase + zext16 sp

/-- `Push` (R11): write, then decrement modulo 0x100. -/
def push (v : Byte) (s : State) : Res State :=
  (busWrite (stackAddr s.sp) v s).map fun t => t.setSp (t.sp - 1#8)

/-- `Pull` (R11): increment modulo 0x100, then read. -/
def pull (s : State) : Res (Byte × State) :=
  busRead (stackAddr (s.sp + 1#8)) (s.setSp (s.sp + 1#8))

/-- Push a word, the high byte first (20_memory.md R70). -/
def pushWord (w : Addr) (s : State) : Res State := (push (hiByte w) s).andThen (push (loByte w))

/-- Pull a word, the low byte first. -/
def pullWord (s : State) : Res (Addr × State) :=
  (pull s).andThen fun lo => (pull lo.2).map fun hi => (join hi.1 lo.1, hi.2)

/-! The status byte. -/

/-- `PackP` (R11, 10_state.md R33): bit 5 always 1, bit 4 the given break bit. -/
def packP (brk : Bool) (p : Status) : Byte :=
  BitVec.ofBool p.n ++ BitVec.ofBool p.v ++ 1#1 ++ BitVec.ofBool brk ++
  BitVec.ofBool p.d ++ BitVec.ofBool p.i ++ BitVec.ofBool p.z ++ BitVec.ofBool p.c

/-- `UnpackP` (R11, 10_state.md R34): bits 5 and 4 of the byte are discarded. -/
def unpackP (v : Byte) : Status :=
  { n := bit v 7, v := bit v 6, u := true, b := false, d := bit v 3, i := bit v 2, z := bit v 1, c := bit v 0 }

/-! Taking an interrupt and returning from one. -/

/-- The entry shared by BRK, `Irq` and `Nmi` (60_exceptions.md R312): push the return address and the status byte, set I, load
`PC` from the vector. -/
def enterInterrupt (ret : Addr) (brk : Bool) (vector : Addr) (s : State) : Res State :=
  (pushWord ret s).andThen fun s1 =>
  (push (packP brk s1.p) s1).andThen fun s2 =>
  (read16 vector (s2.setP { s2.p with i := true })).map fun r => r.2.setPc r.1

/-- The return (60_exceptions.md R313, 44_stack_flags_system.md R233): the flags, then `PC`, with no +1. -/
def returnFromInterrupt (s : State) : Res State :=
  (pull s).andThen fun flags =>
  (pullWord (flags.2.setP (unpackP flags.1))).map fun r => r.2.setPc r.1

/-- Add `INT_CYCLES` to the wait of the instruction in flight (60_exceptions.md R307). -/
def addIntCycles (s : State) : State := s.setCyc (s.cyc + s.config.intCycles)

/-- `Nmi()` (60_exceptions.md R306): never masked. -/
def nmi (s : State) : Res State :=
  match s.fault with
  | some _ => .next s
  | none => (enterInterrupt s.pc false vecNmi s).map addIntCycles

/-- `Irq()` (60_exceptions.md R305): nothing happens and nothing is remembered when I is set. -/
def irq (s : State) : Res State :=
  match s.fault with
  | some _ => .next s
  | none => if s.p.i then .next s else (enterInterrupt s.pc false vecIrq s).map addIntCycles

/-- `Reset()` (70_reset_and_hazards.md R342): I, `PC` from the vector, `cyc`; nothing else. -/
def resetSignal (s : State) : Res State :=
  match s.fault with
  | some _ => .next s
  | none =>
    (read16 vecReset (s.setP { s.p with i := true })).map fun r => (r.2.setPc r.1).setCyc resetCycles

/-- One host call (60_exceptions.md R309). -/
def signal : Signal → State → Res State
  | .irq, s => irq s
  | .nmi, s => nmi s
  | .reset, s => resetSignal s

/-- Host calls in call order (60_exceptions.md R311). -/
def signals : List Signal → State → Res State
  | [], s => .next s
  | c :: rest, s => (signal c s).andThen (signals rest)

end Sys2Proof.Machine
end

