-- ==== Sys2Proof/Machine/Operands.lean ====
section
/-! DEFINITION. The addressing modes (30_encoding.md R110 to R124). Each runs after the instruction's own bytes are fetched, so
`PC` is the address of the next instruction (10_state.md R24), and leaves `EA` and the page-crossed flag in the scratch. -/

namespace Sys2Proof.Machine

/-- Record the effective address (10_state.md R42). -/
def setEa (ea : Addr) (s : State) : State := s.setScratch { s.scratch with ea := ea }

/-- Record the operand (10_state.md R42). -/
def setM (m : Byte) (s : State) : State := s.setScratch { s.scratch with m := m }

/-- Record `base + index` modulo 0x10000, and a page change (R116). -/
def setIndexed (base : Addr) (index : Byte) (s : State) : State :=
  let ea := base + zext16 index
  s.setScratch { s.scratch with
    ea := ea, pageCrossed := s.scratch.pageCrossed || decide (hiByte ea ≠ hiByte base) }

/-- Immediate (R112): `EA` is the address of byte 1, whose byte the fetch has read. -/
def immediate (imm : Byte) (s : State) : State := setM imm (setEa (s.pc - 1#16) s)

/-- Zero-page (R122). -/
def zeroPage (zp : Byte) (s : State) : Res State := .next (setEa (zext16 zp) s)

/-- Zero-page,X (R113): wraps inside page zero. -/
def zeroPageX (zp : Byte) (s : State) : Res State := .next (setEa (zext16 (zp + s.x)) s)

/-- Zero-page,Y (R114). -/
def zeroPageY (zp : Byte) (s : State) : Res State := .next (setEa (zext16 (zp + s.y)) s)

/-- Absolute (R115). -/
def absolute (addr : Addr) (s : State) : Res State := .next (setEa addr s)

/-- Absolute,X (R116). -/
def absoluteX (addr : Addr) (s : State) : Res State := .next (setIndexed addr s.x s)

/-- Absolute,Y (R117). -/
def absoluteY (addr : Addr) (s : State) : Res State := .next (setIndexed addr s.y s)

/-- The address after a pointer, with the page-wrap of the plain indirect mode (R118). -/
def nextInPage (ptr : Addr) : Addr := join (hiByte ptr) (loByte ptr + 1#8)

/-- Indirect (R118). -/
def indirect (ptr : Addr) (s : State) : Res State :=
  (readPair ptr (nextInPage ptr) s).map fun r => setEa r.1 r.2

/-- The word at a zero-page pointer, whose second byte wraps inside page zero (R119, R120). -/
def zeroPagePointer (p : Byte) (s : State) : Res (Addr × State) :=
  readPair (zext16 p) (zext16 (p + 1#8)) s

/-- (Zero-page,X) (R119). -/
def indexedIndirect (zp : Byte) (s : State) : Res State :=
  (zeroPagePointer (zp + s.x) s).map fun r => setEa r.1 r.2

/-- (Zero-page),Y (R120). -/
def indirectIndexed (zp : Byte) (s : State) : Res State :=
  (zeroPagePointer zp s).map fun r => setIndexed r.1 r.2.y r.2

/-- Relative (R121): the address of the next instruction plus the signed displacement. -/
def relative (rel : Byte) (s : State) : State := setEa (s.pc + sext16 rel) s

/-- The operand read at `EA` (R123): once. -/
def loadOperand (s : State) : Res State := (busRead s.scratch.ea s).map fun r => setM r.1 r.2

/-! The shapes of the instructions over an addressing mode. -/

/-- Immediate operand, then an effect on registers and flags. -/
def withImmediate (imm : Byte) (effect : State → State) (s : State) : Res State := .next (effect (immediate imm s))

/-- Operand read from memory, then an effect on registers and flags. -/
def withOperand (mode : State → Res State) (effect : State → State) (s : State) : Res State :=
  (mode s).andThen fun s1 => (loadOperand s1).map effect

/-- A register stored at `EA`, which is not read (R123). -/
def storeRegister (mode : State → Res State) (reg : State → Byte) (s : State) : Res State :=
  (mode s).andThen fun s1 => busWrite s1.scratch.ea (reg s1) s1

/-- Read-modify-write (42_shift_incdec.md R190): one read and one write at the same `EA`. -/
def modifyMemory (mode : State → Res State) (op : Byte → Status → Byte × Status) (s : State) : Res State :=
  (mode s).andThen fun s1 =>
  (loadOperand s1).andThen fun s2 =>
  busWrite s2.scratch.ea (op s2.scratch.m s2.p).1 (s2.setP (op s2.scratch.m s2.p).2)

/-- The accumulator form (R111) of the shifts and rotates. -/
def modifyA (op : Byte → Status → Byte × Status) (s : State) : Res State :=
  .next ((s.setA (op s.a s.p).1).setP (op s.a s.p).2)

/-- The same on X. -/
def modifyX (op : Byte → Status → Byte × Status) (s : State) : Res State :=
  .next ((s.setX (op s.x s.p).1).setP (op s.x s.p).2)

/-- The same on Y. -/
def modifyY (op : Byte → Status → Byte × Status) (s : State) : Res State :=
  .next ((s.setY (op s.y s.p).1).setP (op s.y s.p).2)

/-! The effects of a fetched operand. -/

/-- Load A, with Z and N (40_load_store_transfer.md R140). -/
def loadA (s : State) : State := (s.setA s.scratch.m).setP (setZN s.scratch.m s.p)

/-- Load X (R141). -/
def loadX (s : State) : State := (s.setX s.scratch.m).setP (setZN s.scratch.m s.p)

/-- Load Y (R142). -/
def loadY (s : State) : State := (s.setY s.scratch.m).setP (setZN s.scratch.m s.p)

/-- Combine A with the operand (41_arithmetic_logic.md R160 to R164). -/
def combineA (op : Byte → Byte → Status → Byte × Status) (s : State) : State :=
  (s.setA (op s.a s.scratch.m s.p).1).setP (op s.a s.scratch.m s.p).2

/-- Compare A with the operand (R165). -/
def compareA (s : State) : State := s.setP (compareFlags s.a s.scratch.m s.p)

/-- Compare X (R166). -/
def compareX (s : State) : State := s.setP (compareFlags s.x s.scratch.m s.p)

/-- Compare Y (R167). -/
def compareY (s : State) : State := s.setP (compareFlags s.y s.scratch.m s.p)

/-- Test A against the operand (R168). -/
def testA (s : State) : State := s.setP (bitFlags s.a s.scratch.m s.p)

/-- The common rule of the branches (43_branch_jump.md R200): one extra cycle when taken, one more to another page than that
of the next instruction. -/
def branchIf (cond : Bool) (rel : Byte) (s : State) : Res State :=
  let s1 := relative rel s
  if cond then
    .next ((s1.setScratch { s1.scratch with
      extra := s1.scratch.extra + (if hiByte s1.scratch.ea = hiByte s1.pc then 1 else 2) }).setPc s1.scratch.ea)
  else .next s1

/-- JMP's effect (R209). -/
def jumpTo (mode : State → Res State) (s : State) : Res State :=
  (mode s).map fun s1 => s1.setPc s1.scratch.ea

end Sys2Proof.Machine
end

