-- ==== Sys2Proof/Machine/Arithmetic.lean ====
section
/-! DEFINITION. Arithmetic, logic, compare and bit test (41_arithmetic_logic.md): one meaning per opcode byte, run after the fetch with `PC` at the next
instruction. -/

namespace Sys2Proof.Machine

/-- ADC immediate (R160). -/
def execAdcImm (imm : Byte) (s : State) : Res State :=
  withImmediate imm (combineA addCarry) s

/-- ADC zero-page (R160). -/
def execAdcZp (zp : Byte) (s : State) : Res State :=
  withOperand (zeroPage zp) (combineA addCarry) s

/-- ADC zero-page,X (R160). -/
def execAdcZpx (zp : Byte) (s : State) : Res State :=
  withOperand (zeroPageX zp) (combineA addCarry) s

/-- ADC absolute (R160). -/
def execAdcAbs (addr : Addr) (s : State) : Res State :=
  withOperand (absolute addr) (combineA addCarry) s

/-- ADC absolute,X (R160). -/
def execAdcAbx (addr : Addr) (s : State) : Res State :=
  withOperand (absoluteX addr) (combineA addCarry) s

/-- ADC absolute,Y (R160). -/
def execAdcAby (addr : Addr) (s : State) : Res State :=
  withOperand (absoluteY addr) (combineA addCarry) s

/-- ADC (zero-page,X) (R160). -/
def execAdcIzx (zp : Byte) (s : State) : Res State :=
  withOperand (indexedIndirect zp) (combineA addCarry) s

/-- ADC (zero-page),Y (R160). -/
def execAdcIzy (zp : Byte) (s : State) : Res State :=
  withOperand (indirectIndexed zp) (combineA addCarry) s

/-- SBC immediate (R161). -/
def execSbcImm (imm : Byte) (s : State) : Res State :=
  withImmediate imm (combineA subCarry) s

/-- SBC zero-page (R161). -/
def execSbcZp (zp : Byte) (s : State) : Res State :=
  withOperand (zeroPage zp) (combineA subCarry) s

/-- SBC zero-page,X (R161). -/
def execSbcZpx (zp : Byte) (s : State) : Res State :=
  withOperand (zeroPageX zp) (combineA subCarry) s

/-- SBC absolute (R161). -/
def execSbcAbs (addr : Addr) (s : State) : Res State :=
  withOperand (absolute addr) (combineA subCarry) s

/-- SBC absolute,X (R161). -/
def execSbcAbx (addr : Addr) (s : State) : Res State :=
  withOperand (absoluteX addr) (combineA subCarry) s

/-- SBC absolute,Y (R161). -/
def execSbcAby (addr : Addr) (s : State) : Res State :=
  withOperand (absoluteY addr) (combineA subCarry) s

/-- SBC (zero-page,X) (R161). -/
def execSbcIzx (zp : Byte) (s : State) : Res State :=
  withOperand (indexedIndirect zp) (combineA subCarry) s

/-- SBC (zero-page),Y (R161). -/
def execSbcIzy (zp : Byte) (s : State) : Res State :=
  withOperand (indirectIndexed zp) (combineA subCarry) s

/-- AND immediate (R162). -/
def execAndImm (imm : Byte) (s : State) : Res State :=
  withImmediate imm (combineA andByte) s

/-- AND zero-page (R162). -/
def execAndZp (zp : Byte) (s : State) : Res State :=
  withOperand (zeroPage zp) (combineA andByte) s

/-- AND zero-page,X (R162). -/
def execAndZpx (zp : Byte) (s : State) : Res State :=
  withOperand (zeroPageX zp) (combineA andByte) s

/-- AND absolute (R162). -/
def execAndAbs (addr : Addr) (s : State) : Res State :=
  withOperand (absolute addr) (combineA andByte) s

/-- AND absolute,X (R162). -/
def execAndAbx (addr : Addr) (s : State) : Res State :=
  withOperand (absoluteX addr) (combineA andByte) s

/-- AND absolute,Y (R162). -/
def execAndAby (addr : Addr) (s : State) : Res State :=
  withOperand (absoluteY addr) (combineA andByte) s

/-- AND (zero-page,X) (R162). -/
def execAndIzx (zp : Byte) (s : State) : Res State :=
  withOperand (indexedIndirect zp) (combineA andByte) s

/-- AND (zero-page),Y (R162). -/
def execAndIzy (zp : Byte) (s : State) : Res State :=
  withOperand (indirectIndexed zp) (combineA andByte) s

/-- ORA immediate (R163). -/
def execOraImm (imm : Byte) (s : State) : Res State :=
  withImmediate imm (combineA orByte) s

/-- ORA zero-page (R163). -/
def execOraZp (zp : Byte) (s : State) : Res State :=
  withOperand (zeroPage zp) (combineA orByte) s

/-- ORA zero-page,X (R163). -/
def execOraZpx (zp : Byte) (s : State) : Res State :=
  withOperand (zeroPageX zp) (combineA orByte) s

/-- ORA absolute (R163). -/
def execOraAbs (addr : Addr) (s : State) : Res State :=
  withOperand (absolute addr) (combineA orByte) s

/-- ORA absolute,X (R163). -/
def execOraAbx (addr : Addr) (s : State) : Res State :=
  withOperand (absoluteX addr) (combineA orByte) s

/-- ORA absolute,Y (R163). -/
def execOraAby (addr : Addr) (s : State) : Res State :=
  withOperand (absoluteY addr) (combineA orByte) s

/-- ORA (zero-page,X) (R163). -/
def execOraIzx (zp : Byte) (s : State) : Res State :=
  withOperand (indexedIndirect zp) (combineA orByte) s

/-- ORA (zero-page),Y (R163). -/
def execOraIzy (zp : Byte) (s : State) : Res State :=
  withOperand (indirectIndexed zp) (combineA orByte) s

/-- EOR immediate (R164). -/
def execEorImm (imm : Byte) (s : State) : Res State :=
  withImmediate imm (combineA eorByte) s

/-- EOR zero-page (R164). -/
def execEorZp (zp : Byte) (s : State) : Res State :=
  withOperand (zeroPage zp) (combineA eorByte) s

/-- EOR zero-page,X (R164). -/
def execEorZpx (zp : Byte) (s : State) : Res State :=
  withOperand (zeroPageX zp) (combineA eorByte) s

/-- EOR absolute (R164). -/
def execEorAbs (addr : Addr) (s : State) : Res State :=
  withOperand (absolute addr) (combineA eorByte) s

/-- EOR absolute,X (R164). -/
def execEorAbx (addr : Addr) (s : State) : Res State :=
  withOperand (absoluteX addr) (combineA eorByte) s

/-- EOR absolute,Y (R164). -/
def execEorAby (addr : Addr) (s : State) : Res State :=
  withOperand (absoluteY addr) (combineA eorByte) s

/-- EOR (zero-page,X) (R164). -/
def execEorIzx (zp : Byte) (s : State) : Res State :=
  withOperand (indexedIndirect zp) (combineA eorByte) s

/-- EOR (zero-page),Y (R164). -/
def execEorIzy (zp : Byte) (s : State) : Res State :=
  withOperand (indirectIndexed zp) (combineA eorByte) s

/-- CMP immediate (R165). -/
def execCmpImm (imm : Byte) (s : State) : Res State :=
  withImmediate imm compareA s

/-- CMP zero-page (R165). -/
def execCmpZp (zp : Byte) (s : State) : Res State :=
  withOperand (zeroPage zp) compareA s

/-- CMP zero-page,X (R165). -/
def execCmpZpx (zp : Byte) (s : State) : Res State :=
  withOperand (zeroPageX zp) compareA s

/-- CMP absolute (R165). -/
def execCmpAbs (addr : Addr) (s : State) : Res State :=
  withOperand (absolute addr) compareA s

/-- CMP absolute,X (R165). -/
def execCmpAbx (addr : Addr) (s : State) : Res State :=
  withOperand (absoluteX addr) compareA s

/-- CMP absolute,Y (R165). -/
def execCmpAby (addr : Addr) (s : State) : Res State :=
  withOperand (absoluteY addr) compareA s

/-- CMP (zero-page,X) (R165). -/
def execCmpIzx (zp : Byte) (s : State) : Res State :=
  withOperand (indexedIndirect zp) compareA s

/-- CMP (zero-page),Y (R165). -/
def execCmpIzy (zp : Byte) (s : State) : Res State :=
  withOperand (indirectIndexed zp) compareA s

/-- CPX immediate (R166). -/
def execCpxImm (imm : Byte) (s : State) : Res State :=
  withImmediate imm compareX s

/-- CPX zero-page (R166). -/
def execCpxZp (zp : Byte) (s : State) : Res State :=
  withOperand (zeroPage zp) compareX s

/-- CPX absolute (R166). -/
def execCpxAbs (addr : Addr) (s : State) : Res State :=
  withOperand (absolute addr) compareX s

/-- CPY immediate (R167). -/
def execCpyImm (imm : Byte) (s : State) : Res State :=
  withImmediate imm compareY s

/-- CPY zero-page (R167). -/
def execCpyZp (zp : Byte) (s : State) : Res State :=
  withOperand (zeroPage zp) compareY s

/-- CPY absolute (R167). -/
def execCpyAbs (addr : Addr) (s : State) : Res State :=
  withOperand (absolute addr) compareY s

/-- BIT zero-page (R168). -/
def execBitZp (zp : Byte) (s : State) : Res State :=
  withOperand (zeroPage zp) testA s

/-- BIT absolute (R168). -/
def execBitAbs (addr : Addr) (s : State) : Res State :=
  withOperand (absolute addr) testA s

end Sys2Proof.Machine
end

