-- ==== Sys2Proof/Machine/BranchJump.lean ====
section
/-! DEFINITION. Branches, jumps, subroutine call and return (43_branch_jump.md): one meaning per opcode byte, run after the fetch with `PC` at the next
instruction. -/

namespace Sys2Proof.Machine

/-- BCC (R201). -/
def execBcc (rel : Byte) (s : State) : Res State :=
  branchIf (!s.p.c) rel s

/-- BCS (R202). -/
def execBcs (rel : Byte) (s : State) : Res State :=
  branchIf s.p.c rel s

/-- BEQ (R203). -/
def execBeq (rel : Byte) (s : State) : Res State :=
  branchIf s.p.z rel s

/-- BNE (R204). -/
def execBne (rel : Byte) (s : State) : Res State :=
  branchIf (!s.p.z) rel s

/-- BMI (R205). -/
def execBmi (rel : Byte) (s : State) : Res State :=
  branchIf s.p.n rel s

/-- BPL (R206). -/
def execBpl (rel : Byte) (s : State) : Res State :=
  branchIf (!s.p.n) rel s

/-- BVC (R207). -/
def execBvc (rel : Byte) (s : State) : Res State :=
  branchIf (!s.p.v) rel s

/-- BVS (R208). -/
def execBvs (rel : Byte) (s : State) : Res State :=
  branchIf s.p.v rel s

/-- JMP absolute (R209). -/
def execJmpAbs (addr : Addr) (s : State) : Res State :=
  jumpTo (absolute addr) s

/-- JMP indirect (R209). -/
def execJmpInd (ptr : Addr) (s : State) : Res State :=
  jumpTo (indirect ptr) s

/-- JSR (R210): push the address of its last byte, jump. -/
def execJsr (addr : Addr) (s : State) : Res State :=
  (absolute addr s).andThen fun s1 => (pushWord (s1.pc - 1#16) s1).map fun s2 => s2.setPc s2.scratch.ea

/-- RTS (R211): return from subroutine. -/
def execRts (s : State) : Res State :=
  (pullWord s).map fun r => r.2.setPc (r.1 + 1#16)

end Sys2Proof.Machine
end

