-- ==== Sys2Proof/Machine/LoadStore.lean ====
section
/-! DEFINITION. Loads, stores and register transfers (40_load_store_transfer.md): one meaning per opcode byte, run after the fetch with `PC` at the next
instruction. -/

namespace Sys2Proof.Machine

/-- LDA immediate (R140). -/
def execLdaImm (imm : Byte) (s : State) : Res State :=
  withImmediate imm loadA s

/-- LDA zero-page (R140). -/
def execLdaZp (zp : Byte) (s : State) : Res State :=
  withOperand (zeroPage zp) loadA s

/-- LDA zero-page,X (R140). -/
def execLdaZpx (zp : Byte) (s : State) : Res State :=
  withOperand (zeroPageX zp) loadA s

/-- LDA absolute (R140). -/
def execLdaAbs (addr : Addr) (s : State) : Res State :=
  withOperand (absolute addr) loadA s

/-- LDA absolute,X (R140). -/
def execLdaAbx (addr : Addr) (s : State) : Res State :=
  withOperand (absoluteX addr) loadA s

/-- LDA absolute,Y (R140). -/
def execLdaAby (addr : Addr) (s : State) : Res State :=
  withOperand (absoluteY addr) loadA s

/-- LDA (zero-page,X) (R140). -/
def execLdaIzx (zp : Byte) (s : State) : Res State :=
  withOperand (indexedIndirect zp) loadA s

/-- LDA (zero-page),Y (R140). -/
def execLdaIzy (zp : Byte) (s : State) : Res State :=
  withOperand (indirectIndexed zp) loadA s

/-- LDX immediate (R141). -/
def execLdxImm (imm : Byte) (s : State) : Res State :=
  withImmediate imm loadX s

/-- LDX zero-page (R141). -/
def execLdxZp (zp : Byte) (s : State) : Res State :=
  withOperand (zeroPage zp) loadX s

/-- LDX zero-page,Y (R141). -/
def execLdxZpy (zp : Byte) (s : State) : Res State :=
  withOperand (zeroPageY zp) loadX s

/-- LDX absolute (R141). -/
def execLdxAbs (addr : Addr) (s : State) : Res State :=
  withOperand (absolute addr) loadX s

/-- LDX absolute,Y (R141). -/
def execLdxAby (addr : Addr) (s : State) : Res State :=
  withOperand (absoluteY addr) loadX s

/-- LDY immediate (R142). -/
def execLdyImm (imm : Byte) (s : State) : Res State :=
  withImmediate imm loadY s

/-- LDY zero-page (R142). -/
def execLdyZp (zp : Byte) (s : State) : Res State :=
  withOperand (zeroPage zp) loadY s

/-- LDY zero-page,X (R142). -/
def execLdyZpx (zp : Byte) (s : State) : Res State :=
  withOperand (zeroPageX zp) loadY s

/-- LDY absolute (R142). -/
def execLdyAbs (addr : Addr) (s : State) : Res State :=
  withOperand (absolute addr) loadY s

/-- LDY absolute,X (R142). -/
def execLdyAbx (addr : Addr) (s : State) : Res State :=
  withOperand (absoluteX addr) loadY s

/-- STA zero-page (R143). -/
def execStaZp (zp : Byte) (s : State) : Res State :=
  storeRegister (zeroPage zp) State.a s

/-- STA zero-page,X (R143). -/
def execStaZpx (zp : Byte) (s : State) : Res State :=
  storeRegister (zeroPageX zp) State.a s

/-- STA absolute (R143). -/
def execStaAbs (addr : Addr) (s : State) : Res State :=
  storeRegister (absolute addr) State.a s

/-- STA absolute,X (R143). -/
def execStaAbx (addr : Addr) (s : State) : Res State :=
  storeRegister (absoluteX addr) State.a s

/-- STA absolute,Y (R143). -/
def execStaAby (addr : Addr) (s : State) : Res State :=
  storeRegister (absoluteY addr) State.a s

/-- STA (zero-page,X) (R143). -/
def execStaIzx (zp : Byte) (s : State) : Res State :=
  storeRegister (indexedIndirect zp) State.a s

/-- STA (zero-page),Y (R143). -/
def execStaIzy (zp : Byte) (s : State) : Res State :=
  storeRegister (indirectIndexed zp) State.a s

/-- STX zero-page (R144). -/
def execStxZp (zp : Byte) (s : State) : Res State :=
  storeRegister (zeroPage zp) State.x s

/-- STX zero-page,Y (R144). -/
def execStxZpy (zp : Byte) (s : State) : Res State :=
  storeRegister (zeroPageY zp) State.x s

/-- STX absolute (R144). -/
def execStxAbs (addr : Addr) (s : State) : Res State :=
  storeRegister (absolute addr) State.x s

/-- STY zero-page (R145). -/
def execStyZp (zp : Byte) (s : State) : Res State :=
  storeRegister (zeroPage zp) State.y s

/-- STY zero-page,X (R145). -/
def execStyZpx (zp : Byte) (s : State) : Res State :=
  storeRegister (zeroPageX zp) State.y s

/-- STY absolute (R145). -/
def execStyAbs (addr : Addr) (s : State) : Res State :=
  storeRegister (absolute addr) State.y s

/-- TAX (R146): transfer A to X. -/
def execTax (s : State) : Res State :=
  .next ((s.setX s.a).setP (setZN s.a s.p))

/-- TAY (R147): transfer A to Y. -/
def execTay (s : State) : Res State :=
  .next ((s.setY s.a).setP (setZN s.a s.p))

/-- TXA (R148): transfer X to A. -/
def execTxa (s : State) : Res State :=
  .next ((s.setA s.x).setP (setZN s.x s.p))

/-- TYA (R149): transfer Y to A. -/
def execTya (s : State) : Res State :=
  .next ((s.setA s.y).setP (setZN s.y s.p))

/-- TSX (R150): transfer SP to X. -/
def execTsx (s : State) : Res State :=
  .next ((s.setX s.sp).setP (setZN s.sp s.p))

/-- TXS (R151): transfer X to SP; no flag changes. -/
def execTxs (s : State) : Res State :=
  .next (s.setSp s.x)

end Sys2Proof.Machine
end

