-- ==== Sys2Proof/Machine/ShiftIncDec.lean ====
section
/-! DEFINITION. Shifts, rotates, increments and decrements (42_shift_incdec.md): one meaning per opcode byte, run after the fetch with `PC` at the next
instruction. -/

namespace Sys2Proof.Machine

/-- ASL accumulator (R180). -/
def execAslAcc (s : State) : Res State :=
  modifyA shiftLeft s

/-- ASL zero-page (R180). -/
def execAslZp (zp : Byte) (s : State) : Res State :=
  modifyMemory (zeroPage zp) shiftLeft s

/-- ASL zero-page,X (R180). -/
def execAslZpx (zp : Byte) (s : State) : Res State :=
  modifyMemory (zeroPageX zp) shiftLeft s

/-- ASL absolute (R180). -/
def execAslAbs (addr : Addr) (s : State) : Res State :=
  modifyMemory (absolute addr) shiftLeft s

/-- ASL absolute,X (R180). -/
def execAslAbx (addr : Addr) (s : State) : Res State :=
  modifyMemory (absoluteX addr) shiftLeft s

/-- LSR accumulator (R181). -/
def execLsrAcc (s : State) : Res State :=
  modifyA shiftRight s

/-- LSR zero-page (R181). -/
def execLsrZp (zp : Byte) (s : State) : Res State :=
  modifyMemory (zeroPage zp) shiftRight s

/-- LSR zero-page,X (R181). -/
def execLsrZpx (zp : Byte) (s : State) : Res State :=
  modifyMemory (zeroPageX zp) shiftRight s

/-- LSR absolute (R181). -/
def execLsrAbs (addr : Addr) (s : State) : Res State :=
  modifyMemory (absolute addr) shiftRight s

/-- LSR absolute,X (R181). -/
def execLsrAbx (addr : Addr) (s : State) : Res State :=
  modifyMemory (absoluteX addr) shiftRight s

/-- ROL accumulator (R182). -/
def execRolAcc (s : State) : Res State :=
  modifyA rotateLeft s

/-- ROL zero-page (R182). -/
def execRolZp (zp : Byte) (s : State) : Res State :=
  modifyMemory (zeroPage zp) rotateLeft s

/-- ROL zero-page,X (R182). -/
def execRolZpx (zp : Byte) (s : State) : Res State :=
  modifyMemory (zeroPageX zp) rotateLeft s

/-- ROL absolute (R182). -/
def execRolAbs (addr : Addr) (s : State) : Res State :=
  modifyMemory (absolute addr) rotateLeft s

/-- ROL absolute,X (R182). -/
def execRolAbx (addr : Addr) (s : State) : Res State :=
  modifyMemory (absoluteX addr) rotateLeft s

/-- ROR accumulator (R183). -/
def execRorAcc (s : State) : Res State :=
  modifyA rotateRight s

/-- ROR zero-page (R183). -/
def execRorZp (zp : Byte) (s : State) : Res State :=
  modifyMemory (zeroPage zp) rotateRight s

/-- ROR zero-page,X (R183). -/
def execRorZpx (zp : Byte) (s : State) : Res State :=
  modifyMemory (zeroPageX zp) rotateRight s

/-- ROR absolute (R183). -/
def execRorAbs (addr : Addr) (s : State) : Res State :=
  modifyMemory (absolute addr) rotateRight s

/-- ROR absolute,X (R183). -/
def execRorAbx (addr : Addr) (s : State) : Res State :=
  modifyMemory (absoluteX addr) rotateRight s

/-- INC zero-page (R184). -/
def execIncZp (zp : Byte) (s : State) : Res State :=
  modifyMemory (zeroPage zp) increment s

/-- INC zero-page,X (R184). -/
def execIncZpx (zp : Byte) (s : State) : Res State :=
  modifyMemory (zeroPageX zp) increment s

/-- INC absolute (R184). -/
def execIncAbs (addr : Addr) (s : State) : Res State :=
  modifyMemory (absolute addr) increment s

/-- INC absolute,X (R184). -/
def execIncAbx (addr : Addr) (s : State) : Res State :=
  modifyMemory (absoluteX addr) increment s

/-- DEC zero-page (R185). -/
def execDecZp (zp : Byte) (s : State) : Res State :=
  modifyMemory (zeroPage zp) decrement s

/-- DEC zero-page,X (R185). -/
def execDecZpx (zp : Byte) (s : State) : Res State :=
  modifyMemory (zeroPageX zp) decrement s

/-- DEC absolute (R185). -/
def execDecAbs (addr : Addr) (s : State) : Res State :=
  modifyMemory (absolute addr) decrement s

/-- DEC absolute,X (R185). -/
def execDecAbx (addr : Addr) (s : State) : Res State :=
  modifyMemory (absoluteX addr) decrement s

/-- INX (R186): increment X. -/
def execInx (s : State) : Res State :=
  modifyX increment s

/-- INY (R187): increment Y. -/
def execIny (s : State) : Res State :=
  modifyY increment s

/-- DEX (R188): decrement X. -/
def execDex (s : State) : Res State :=
  modifyX decrement s

/-- DEY (R189): decrement Y. -/
def execDey (s : State) : Res State :=
  modifyY decrement s

end Sys2Proof.Machine
end

