-- ==== Sys2Proof/Machine/StackSystem.lean ====
section
/-! DEFINITION. Stack, flag, no-operation and system instructions (44_stack_flags_system.md): one meaning per opcode byte, run after the fetch with `PC` at the next
instruction. -/

namespace Sys2Proof.Machine

/-- PHA (R220): push A. -/
def execPha (s : State) : Res State :=
  push s.a s

/-- PHP (R221): push the status byte with bits 5 and 4 set. -/
def execPhp (s : State) : Res State :=
  push (packP true s.p) s

/-- PLA (R222): pull A, with Z and N. -/
def execPla (s : State) : Res State :=
  (pull s).map fun r => (r.2.setA r.1).setP (setZN r.1 r.2.p)

/-- PLP (R223): pull the status byte. -/
def execPlp (s : State) : Res State :=
  (pull s).map fun r => r.2.setP (unpackP r.1)

/-- CLC (R224): clear carry. -/
def execClc (s : State) : Res State :=
  .next (s.setP { s.p with c := false })

/-- SEC (R225): set carry. -/
def execSec (s : State) : Res State :=
  .next (s.setP { s.p with c := true })

/-- CLI (R226): clear interrupt-disable. -/
def execCli (s : State) : Res State :=
  .next (s.setP { s.p with i := false })

/-- SEI (R227): set interrupt-disable. -/
def execSei (s : State) : Res State :=
  .next (s.setP { s.p with i := true })

/-- CLV (R228): clear overflow. -/
def execClv (s : State) : Res State :=
  .next (s.setP { s.p with v := false })

/-- CLD (R229): clear decimal. -/
def execCld (s : State) : Res State :=
  .next (s.setP { s.p with d := false })

/-- SED (R230): set decimal. -/
def execSed (s : State) : Res State :=
  .next (s.setP { s.p with d := true })

/-- NOP (R231): no operation. -/
def execNop (s : State) : Res State :=
  .next s

/-- BRK (R232): software break: the byte after the opcode is skipped. -/
def execBrk (s : State) : Res State :=
  enterInterrupt (s.pc + 1#16) true vecIrq s

/-- RTI (R233): return from interrupt. -/
def execRti (s : State) : Res State :=
  returnFromInterrupt s

end Sys2Proof.Machine
end

