-- ==== Sys2Proof/Machine/Tick.lean ====
section
/-! DEFINITION. The processor's tick (10_state.md R40), the VTU's tick (49_video_timing_unit.md R253) and the master-clock step
(70_reset_and_hazards.md R350), with the host's calls before it (60_exceptions.md R309). -/

namespace Sys2Proof.Machine

/-- What a fetch found: the table row, the instruction, and the state after its bytes are read. -/
structure Fetched where
  row : OpRow
  instr : Instr
  state : State

/-- Read the opcode byte at `PC`, look it up, and read the operand bytes (R40; 30_encoding.md R100). An undefined opcode
faults before any operand byte is read (60_exceptions.md R302). The flags of the tick are cleared (R40). -/
def fetchInstr (s : State) : Res Fetched :=
  (fetch8 s).andThen fun op =>
  match opRow op.1 with
  | none => .fault (.illegalOpcode op.1 s.pc)
  | some row =>
    (fetchBytes row.mode.operandBytes op.2).andThen fun rest =>
    match decode (op.1 :: rest.1) with
    | .error _ => .fault (.illegalOpcode op.1 s.pc)
    | .ok (i, _) =>
      .next { row := row, instr := i
              state := rest.2.setScratch { rest.2.scratch with
                opcode := op.1, mode := row.mode, pageCrossed := false, extra := 0 } }

/-- The wait an executed instruction loads: base count, page penalty, branch extras (R40; 30_encoding.md R124). -/
def waitOf (row : OpRow) (k : Scratch) : Nat :=
  row.cycles + (if k.pageCrossed && row.penalty then 1 else 0) + k.extra

/-- `Tick` with `cyc = 0`: one whole instruction (R40). -/
def runInstr (s : State) : Res State :=
  (fetchInstr s).andThen fun f =>
  Res.map (exec f.instr f.state) fun t => t.setCyc (waitOf f.row t.scratch)

/-- `Tick` (R40). Its fault test is `runStep`'s (log 7). -/
def tick (s : State) : Res State :=
  match s.cyc with
  | 0 => runInstr s
  | c + 1 => .next (s.setCyc c)

/-- `TickClock` (49_video_timing_unit.md R253): the NMI entry runs inside the tick (R276). R253's fault test is `runStep`'s: within
a step a fault ends the sequence (log 7). -/
def tickClock (s : State) : Res State :=
  if s.vtu.raisesNmi then nmi (s.setVtu s.vtu.count) else .next (s.setVtu s.vtu.count)

/-- `k` VTU ticks. -/
def clockTicks : Nat → State → Res State
  | 0, s => .next s
  | k + 1, s => (tickClock s).andThen (clockTicks k)

/-- `MasterStep` without its fault test, which is `runStep`'s: the processor, then three VTU ticks (R350). A fault abandons the rest. -/
def masterStep (s : State) : Res State := (tick s).andThen (clockTicks 3)

/-- Make the host's calls that come before this step (60_exceptions.md R309; log 8). -/
def takeHostCalls (s : State) : Res State :=
  match s.hostCalls with
  | [] => .next s
  | calls :: later => signals calls (s.setHostCalls later)

/-- One step of the machine: nothing once a fault is recorded (10_state.md R44; log 7), else the host's calls, then the
master-clock step. -/
def runStep (s : State) : Res State :=
  match s.fault with
  | some f => .fault f
  | none => (takeHostCalls s).andThen masterStep

/-- The machine as a total function of its state, with the sticky stop record of 10_state.md R44: a fault is recorded, and once
recorded nothing changes any more. Everything but the record is unspecified at a fault (60_exceptions.md R301); this view
keeps the state before the step (log 7). -/
def advance (s : State) : State :=
  match runStep s with
  | .next t => t
  | .fault f => s.setFault (some f)
  | .refused _ => s

/-! Placing an instruction where the next fetch reads it. -/

/-- Store a byte behind a bus address: RAM and plain RAM as a bus write does, ROM in the cartridge itself. -/
def placeByte (a : Addr) (v : Byte) (s : State) : State :=
  match region a with
  | .ram i => s.setRam (memWrite s.ram i v)
  | .xram i => s.setXram (memWrite s.xram i v)
  | .port _ => s
  | .rom =>
    match s.cart with
    | none => s
    | some c => s.setCart (some { c with prg := memWrite c.prg (prgIndex c.prgBanks a) v })

/-- Store bytes at consecutive bus addresses. -/
def placeBytes : Addr → List Byte → State → State
  | _, [], s => s
  | a, b :: bs, s => placeBytes (a + 1#16) bs (placeByte a b s)

/-- Whether a byte can be placed behind a bus address: a VTU register holds none, nor does an absent cartridge. -/
def placeable (s : State) (a : Addr) : Bool :=
  match region a with
  | .ram _ => true
  | .xram _ => true
  | .port _ => false
  | .rom => s.cart.isSome

/-- Where `placeInstr` puts an instruction: at `PC`, or at 0x0200 in work RAM where `PC` points at addresses that hold no
bytes (log 12). -/
def placeAddress (s : State) : Addr :=
  if placeable s s.pc && placeable s (s.pc + 1#16) && placeable s (s.pc + 2#16) then s.pc else 0x0200#16

/-- The script with no call before the next step. -/
def quietCalls : List (List Signal) → List (List Signal)
  | [] => []
  | _ :: later => [] :: later

/-- Make the next step fetch and run an instruction given by its bytes: no recorded fault, no wait left, no host call before
the step, the bytes at the address fetched (log 12). -/
def placeInstr (bytes : List Byte) (s : State) : State :=
  let a := placeAddress s
  placeBytes a bytes ((((s.setFault none).setCyc 0).setHostCalls (quietCalls s.hostCalls)).setPc a)

end Sys2Proof.Machine
end

