-- ==== Sys2Proof/Machine/Step.lean ====
section
/-! DEFINITION. One step of the machine: the host's calls, then one master-clock step (70_reset_and_hazards.md R350). -/

namespace Sys2Proof.Machine

/-- One step: Machine/Tick.lean's `runStep`. -/
def step (s : State) : Host.Outcome State Fault Refusal := runStep s

/-- `s` with the instruction whose bits are `w` where `step` fetches next, so that `step` runs exactly it. -/
def State.withFetchWord (s : State) (nbits w : Nat) : State := placeInstr (tableBytes nbits w) s

end Sys2Proof.Machine
end

