-- ==== Sys2Proof/Machine/Launch.lean ====
section
/-! DEFINITION. From the launch parameters to the launch state (00_scope.md R8, 10_state.md R49, 70_reset_and_hazards.md R345,
R346). -/

namespace Sys2Proof.Machine

/-- The launch parameters the spec leaves OPEN (00_scope.md R8). -/
structure Launch where
  a0 : Byte
  x0 : Byte
  y0 : Byte
  sp0 : Byte
  /-- `P0`: six flags; U and B of this register are not read, they start as 1 and 0 (10_state.md R49). -/
  p0 : Status
  ram : Memory
  xram : Memory
  nt : Memory
  pal : Memory
  oam : Memory
  /-- The cartridge, whose presence is a premise of the launch (R345). -/
  cart : Cartridge
  config : Config
  deriving DecidableEq, Repr

/-- A legal launch configuration (20_memory.md R90, 10_state.md R46). -/
abbrev Launch.wf (l : Launch) : Prop :=
  memWf ramSize l.ram ∧ memWf xramSize l.xram ∧ memWf ntSize l.nt ∧ memWf palSize l.pal ∧ memWf oamSize l.oam ∧
  l.cart.wf

/-- The machine at power-on, before the cartridge is inserted (10_state.md R49). `PC` is unspecified and never used before
`Reset`: zero here (log 6). -/
def powerOn (l : Launch) : State :=
  { pc := 0#16, a := l.a0, x := l.x0, y := l.y0, sp := l.sp0, p := { l.p0 with u := true, b := false }, cyc := 0
    scratch := startScratch, fault := none, ram := l.ram, xram := l.xram
    vtu := { Vtu.powerOn with nt := l.nt, pal := l.pal, oam := l.oam }
    cart := none, config := l.config, hostCalls := [] }

/-- The launch sequence: create, insert the cartridge, `Reset()` once (70_reset_and_hazards.md R346). -/
def launch (l : Launch) : Res State := resetSignal ((powerOn l).setCart (some l.cart))

/-- The recommended defaults (70_reset_and_hazards.md R341) with a given cartridge. -/
def recommendedLaunch (c : Cartridge) : Launch :=
  { a0 := 0#8, x0 := 0#8, y0 := 0#8, sp0 := 0xFD#8, p0 := defaultStatus, ram := [], xram := [], nt := [], pal := [], oam := []
    cart := c, config := recommendedConfig }

/-- Load a ROM image and launch on the recommended defaults: the load-time failure, or the launch state (R346 steps 1 to 3). -/
def launchImage (image : List Byte) : Except LoadError (Res State) :=
  match parseImage image with
  | .error e => .error e
  | .ok c => .ok (launch (recommendedLaunch c))

end Sys2Proof.Machine
end

