-- ==== Sys2Proof/Safety.lean ====
section
/-! DEFINITION. The terms claims use: which accesses the machine can make, the stored byte behind an address, effective
addresses, the machine invariant, and the shapes of an instruction's claim. They are written from the spec's words, apart
from the definitions of the machine. -/

namespace Sys2Proof.Safety

open Sys2Proof.Machine

/-! Accesses. -/

/-- The VRAM address the data port uses: `v[13:0]` (49_video_timing_unit.md R268). -/
def portVramAddr (s : State) : Nat := s.vtu.v.toNat % 0x4000

/-- A data-port read completes: palette space always, nametables with a cartridge, graphics ROM within its banks
(20_memory.md R86, R91). -/
def dataReadable (s : State) : Bool :=
  match s.cart with
  | none => decide (0x3F00 ≤ portVramAddr s)
  | some c => decide (0x2000 ≤ portVramAddr s) || decide (portVramAddr s < 0x2000 * c.chrBanks)

/-- A bus read completes (20_memory.md R61, R91). -/
def readable (s : State) (a : Addr) : Bool :=
  if a.toNat < 0x2000 then true
  else if a.toNat < 0x4000 then decide (a.toNat % 8 ≠ 7) || dataReadable s
  else if a.toNat < 0x8000 then true
  else s.cart.isSome

/-- A bus write completes (20_memory.md R62, R91; 49_video_timing_unit.md R261, R271). -/
def writable (s : State) (a : Addr) : Bool :=
  if a.toNat < 0x2000 then true
  else if a.toNat < 0x4000 then
    decide (a.toNat % 8 ≠ 2) && (decide (a.toNat % 8 ≠ 7) || s.cart.isSome || decide (0x3F00 ≤ portVramAddr s))
  else if a.toNat < 0x8000 then true
  else s.cart.isSome

/-- The byte stored behind a bus address: RAM through its mirrors, plain RAM, the cartridge's ROM (20_memory.md R63). A VTU
register holds no byte, nor does an empty cartridge slot. -/
def byteAt (s : State) (a : Addr) : Option Byte :=
  if a.toNat < 0x2000 then some (memRead s.ram (a.toNat % 0x800))
  else if a.toNat < 0x4000 then none
  else if a.toNat < 0x8000 then some (memRead s.xram (a.toNat - 0x4000))
  else
    match s.cart with
    | none => none
    | some c =>
      match c.prgBanks with
      | .two => some (memRead c.prg (a.toNat - 0x8000))
      | .one => some (memRead c.prg ((a.toNat - 0x8000) % 0x4000))

/-- Two bus addresses are one stored byte: the same address, or mirrors of one byte of work RAM (20_memory.md R64). -/
abbrev sameByte (a b : Addr) : Prop :=
  a = b ∨ (a.toNat < 0x2000 ∧ b.toNat < 0x2000 ∧ a.toNat % 0x800 = b.toNat % 0x800)

/-- The index in work RAM of the byte that `SP` points at (10_state.md R25). -/
def stackIndex (sp : Byte) : Nat := 0x100 + sp.toNat

/-- The vector word `k` bytes below the top of the ROM window (20_memory.md R63, R85): 6 NMI, 4 reset, 2 IRQ and BRK. -/
def vectorWord (c : Cartridge) (k : Nat) : Addr :=
  match c.prgBanks with
  | .two => memRead c.prg (0x8000 - k + 1) ++ memRead c.prg (0x8000 - k)
  | .one => memRead c.prg (0x4000 - k + 1) ++ memRead c.prg (0x4000 - k)

/-- No fault is recorded and the host makes no call before the next step. -/
abbrev Quiet (s : State) : Prop := s.fault = none ∧ s.hostCalls.headD [] = []

/-! The machine invariant. -/

/-- What every step keeps: the stores are canonical and within their sizes (10_state.md R46), the counters are in range
(49_video_timing_unit.md R252), only VBlank of the status register is ever set (R260), and P.U = 1, P.B = 0 (10_state.md R34,
R49). -/
structure Inv (s : State) : Prop where
  ram : memWf 0x800 s.ram
  xram : memWf 0x4000 s.xram
  nt : memWf 0x800 s.vtu.nt
  pal : memWf 0x20 s.vtu.pal
  oam : memWf 0x100 s.vtu.oam
  cart : ∀ c, s.cart = some c → c.wf
  cycle : s.vtu.cycle ≤ 340
  scanline : s.vtu.scanline ≤ 261
  status : s.vtu.status &&& 0x7F#8 = 0#8
  unused : s.p.u = true
  break_ : s.p.b = false

/-! Flags and words. -/

/-- Z and N of a byte (00_scope.md R11 `SetZN`). -/
def withZN (p : Status) (v : Byte) : Status :=
  { p with z := decide (v.toNat = 0), n := decide (0x80 ≤ v.toNat) }

/-- The status byte `N V 1 b D I Z C` (00_scope.md R11 `PackP`) as a number. -/
def statusByte (brk : Bool) (p : Status) : Byte :=
  BitVec.ofNat 8 (128 * p.n.toNat + 64 * p.v.toNat + 32 + 16 * brk.toNat + 8 * p.d.toNat + 4 * p.i.toNat +
    2 * p.z.toNat + p.c.toNat)

/-- The page of an address (00_scope.md R12). -/
def page (a : Addr) : Nat := a.toNat / 0x100

/-- The word at a zero-page pointer, both bytes in page zero (30_encoding.md R119, R120). -/
def zeroPageWord (s : State) (p : Byte) : Addr := memRead s.ram (p + 1#8).toNat ++ memRead s.ram p.toNat

/-! Addressing modes with an operand byte or word: the effective address, and whether a page is crossed. -/

/-- A mode whose operand is one byte. -/
structure ByteMode where
  mode : Mode
  ea : State → Byte → Addr
  crossed : State → Byte → Bool

/-- A mode whose operand is a word. -/
structure WordMode where
  mode : Mode
  ea : State → Addr → Addr
  crossed : State → Addr → Bool

/-- Zero-page (30_encoding.md R122). -/
def zp : ByteMode := { mode := .zp, ea := fun _ z => z.zeroExtend 16, crossed := fun _ _ => false }
/-- Zero-page,X (R113). -/
def zpx : ByteMode := { mode := .zpx, ea := fun s z => (z + s.x).zeroExtend 16, crossed := fun _ _ => false }
/-- Zero-page,Y (R114). -/
def zpy : ByteMode := { mode := .zpy, ea := fun s z => (z + s.y).zeroExtend 16, crossed := fun _ _ => false }
/-- (Zero-page,X) (R119). -/
def izx : ByteMode := { mode := .izx, ea := fun s z => zeroPageWord s (z + s.x), crossed := fun _ _ => false }
/-- (Zero-page),Y (R120). -/
def izy : ByteMode :=
  { mode := .izy
    ea := fun s z => zeroPageWord s z + s.y.zeroExtend 16
    crossed := fun s z => decide (page (zeroPageWord s z + s.y.zeroExtend 16) ≠ page (zeroPageWord s z)) }
/-- Absolute (R115). -/
def abs : WordMode := { mode := .abs, ea := fun _ w => w, crossed := fun _ _ => false }
/-- Absolute,X (R116). -/
def abx : WordMode :=
  { mode := .abx
    ea := fun s w => w + s.x.zeroExtend 16
    crossed := fun s w => decide (page (w + s.x.zeroExtend 16) ≠ page w) }
/-- Absolute,Y (R117). -/
def aby : WordMode :=
  { mode := .aby
    ea := fun s w => w + s.y.zeroExtend 16
    crossed := fun s w => decide (page (w + s.y.zeroExtend 16) ≠ page w) }

/-! The encodings a rule lists: opcode byte, mode, base cycles, page penalty. -/

/-- The opcode map's row of a byte (30_encoding.md R105), whatever its form. -/
def HasRow (op : Byte) (mn : Mnemonic) (mode : Mode) (cycles : Nat) (penalty : Bool) : Prop :=
  ∃ form, opRow op = some { opcode := op, mnemonic := mn, mode := mode, cycles := cycles, penalty := penalty, form := form }

/-- A one-byte encoding (30_encoding.md R101, F1). -/
def Encodes1 (op : Byte) (mn : Mnemonic) (mode : Mode) (cycles : Nat) (i : Instr) : Prop :=
  HasRow op mn mode cycles false ∧ encode i = [op] ∧ ∀ rest, decode (op :: rest) = .ok (i, rest)

/-- A two-byte encoding (F2). -/
def Encodes2 (op : Byte) (mn : Mnemonic) (mode : Mode) (cycles : Nat) (penalty : Bool) (make : Byte → Instr) : Prop :=
  HasRow op mn mode cycles penalty ∧
  ∀ b, encode (make b) = [op, b] ∧ ∀ rest, decode (op :: b :: rest) = .ok (make b, rest)

/-- A three-byte encoding (F3), the low operand byte first. -/
def Encodes3 (op : Byte) (mn : Mnemonic) (mode : Mode) (cycles : Nat) (penalty : Bool) (make : Addr → Instr) : Prop :=
  HasRow op mn mode cycles penalty ∧
  ∀ lo hi : Byte, encode (make (hi ++ lo)) = [op, lo, hi] ∧ ∀ rest, decode (op :: lo :: hi :: rest) = .ok (make (hi ++ lo), rest)

/-! What an instruction over an addressing mode does. -/

/-- The scratch after an operand fetch: `EA`, the page-crossed flag, and the rest of the tick's record kept. -/
def FetchedTo (s : State) (ea : Addr) (crossed : Bool) (k : Scratch) : Prop :=
  k.ea = ea ∧ k.pageCrossed = (s.scratch.pageCrossed || crossed) ∧ k.extra = s.scratch.extra ∧
  k.opcode = s.scratch.opcode ∧ k.mode = s.scratch.mode

/-- The instruction reads the byte at `ea` once and completes with `post` of it, and stops exactly when that read stops. -/
def ReadsAt (i : Instr) (s : State) (ea : Addr) (crossed : Bool) (post : Byte → State → State) : Prop :=
  (readable s ea = true → ∃ v r k, busRead ea s = .next (v, r) ∧ FetchedTo s ea crossed k ∧ k.m = v ∧
    exec i s = .next { post v r with scratch := k }) ∧
  (readable s ea = false → ∃ f, busRead ea s = .fault f ∧ exec i s = .fault f)

/-- The instruction writes `v` at `ea` once, reads nothing there, and completes; it stops exactly when that write stops. -/
def StoresAt (i : Instr) (s : State) (ea : Addr) (crossed : Bool) (v : Byte) : Prop :=
  (writable s ea = true → ∃ t k, busWrite ea v s = .next t ∧ FetchedTo s ea crossed k ∧ k.m = s.scratch.m ∧
    exec i s = .next { t with scratch := k }) ∧
  (writable s ea = false → ∃ f, busWrite ea v s = .fault f ∧ exec i s = .fault f)

/-- Read-modify-write (42_shift_incdec.md R190): one read, one write of `result` at the same address in the state after the
read, and the flags `flags`; it stops exactly when the read or the write stops. -/
def ModifiesAt (i : Instr) (s : State) (ea : Addr) (crossed : Bool) (result : Byte → Status → Byte)
    (flags : Byte → Status → Status) : Prop :=
  (readable s ea = true → ∃ v r, busRead ea s = .next (v, r) ∧
    (writable r ea = true → ∃ t k, busWrite ea (result v s.p) r = .next t ∧ FetchedTo s ea crossed k ∧ k.m = v ∧
      exec i s = .next { t with p := flags v s.p, scratch := k }) ∧
    (writable r ea = false → ∃ f, busWrite ea (result v s.p) r = .fault f ∧ exec i s = .fault f)) ∧
  (readable s ea = false → ∃ f, busRead ea s = .fault f ∧ exec i s = .fault f)

/-- An immediate form: its encoding, and its effect from every state. -/
def ImmForm (op : Byte) (mn : Mnemonic) (make : Byte → Instr) (post : Byte → State → State) : Prop :=
  Encodes2 op mn .imm 2 false make ∧
  ∀ s v, ∃ k, FetchedTo s (s.pc - 1#16) false k ∧ k.m = v ∧ exec (make v) s = .next { post v s with scratch := k }

/-- A reading form with an operand byte. -/
def ReadForm2 (op : Byte) (mn : Mnemonic) (m : ByteMode) (cycles : Nat) (penalty : Bool) (make : Byte → Instr)
    (post : Byte → State → State) : Prop :=
  Encodes2 op mn m.mode cycles penalty make ∧ ∀ s z, ReadsAt (make z) s (m.ea s z) (m.crossed s z) post

/-- A reading form with an operand word. -/
def ReadForm3 (op : Byte) (mn : Mnemonic) (m : WordMode) (cycles : Nat) (penalty : Bool) (make : Addr → Instr)
    (post : Byte → State → State) : Prop :=
  Encodes3 op mn m.mode cycles penalty make ∧ ∀ s w, ReadsAt (make w) s (m.ea s w) (m.crossed s w) post

/-- A storing form with an operand byte. -/
def StoreForm2 (op : Byte) (mn : Mnemonic) (m : ByteMode) (cycles : Nat) (make : Byte → Instr) (reg : State → Byte) : Prop :=
  Encodes2 op mn m.mode cycles false make ∧ ∀ s z, StoresAt (make z) s (m.ea s z) (m.crossed s z) (reg s)

/-- A storing form with an operand word. -/
def StoreForm3 (op : Byte) (mn : Mnemonic) (m : WordMode) (cycles : Nat) (make : Addr → Instr) (reg : State → Byte) : Prop :=
  Encodes3 op mn m.mode cycles false make ∧ ∀ s w, StoresAt (make w) s (m.ea s w) (m.crossed s w) (reg s)

/-- A read-modify-write form with an operand byte. -/
def ModifyForm2 (op : Byte) (mn : Mnemonic) (m : ByteMode) (cycles : Nat) (make : Byte → Instr)
    (result : Byte → Status → Byte) (flags : Byte → Status → Status) : Prop :=
  Encodes2 op mn m.mode cycles false make ∧ ∀ s z, ModifiesAt (make z) s (m.ea s z) (m.crossed s z) result flags

/-- A read-modify-write form with an operand word. -/
def ModifyForm3 (op : Byte) (mn : Mnemonic) (m : WordMode) (cycles : Nat) (make : Addr → Instr)
    (result : Byte → Status → Byte) (flags : Byte → Status → Status) : Prop :=
  Encodes3 op mn m.mode cycles false make ∧ ∀ s w, ModifiesAt (make w) s (m.ea s w) (m.crossed s w) result flags

/-- An implied or accumulator form whose effect needs nothing of the state. -/
def PlainForm (op : Byte) (mn : Mnemonic) (mode : Mode) (cycles : Nat) (i : Instr) (post : State → State) : Prop :=
  Encodes1 op mn mode cycles i ∧ ∀ s, exec i s = .next (post s)

/-! The mnemonic of an instruction. -/

/-- The mnemonic the opcode map gives an instruction's first byte (30_encoding.md R104). -/
def mnemonicOf (i : Instr) : Option Mnemonic :=
  match encode i with
  | [] => none
  | op :: _ =>
    match opRow op with
    | none => none
    | some row => some row.mnemonic

/-- The 105 undefined opcode bytes as 30_encoding.md R106 lists them. -/
def undefinedOpcodes : List Byte :=
  [0x02#8, 0x03#8, 0x04#8, 0x07#8, 0x0B#8, 0x0C#8, 0x0F#8, 0x12#8, 0x13#8, 0x14#8, 0x17#8, 0x1A#8, 0x1B#8, 0x1C#8, 0x1F#8] ++
  [0x22#8, 0x23#8, 0x27#8, 0x2B#8, 0x2F#8, 0x32#8, 0x33#8, 0x34#8, 0x37#8, 0x3A#8, 0x3B#8, 0x3C#8, 0x3F#8, 0x42#8, 0x43#8] ++
  [0x44#8, 0x47#8, 0x4B#8, 0x4F#8, 0x52#8, 0x53#8, 0x54#8, 0x57#8, 0x5A#8, 0x5B#8, 0x5C#8, 0x5F#8, 0x62#8, 0x63#8, 0x64#8] ++
  [0x67#8, 0x6B#8, 0x6F#8, 0x72#8, 0x73#8, 0x74#8, 0x77#8, 0x7A#8, 0x7B#8, 0x7C#8, 0x7F#8, 0x80#8, 0x82#8, 0x83#8, 0x87#8] ++
  [0x89#8, 0x8B#8, 0x8F#8, 0x92#8, 0x93#8, 0x97#8, 0x9B#8, 0x9C#8, 0x9E#8, 0x9F#8, 0xA3#8, 0xA7#8, 0xAB#8, 0xAF#8, 0xB2#8] ++
  [0xB3#8, 0xB7#8, 0xBB#8, 0xBF#8, 0xC2#8, 0xC3#8, 0xC7#8, 0xCB#8, 0xCF#8, 0xD2#8, 0xD3#8, 0xD4#8, 0xD7#8, 0xDA#8, 0xDB#8] ++
  [0xDC#8, 0xDF#8, 0xE2#8, 0xE3#8, 0xE7#8, 0xEB#8, 0xEF#8, 0xF2#8, 0xF3#8, 0xF4#8, 0xF7#8, 0xFA#8, 0xFB#8, 0xFC#8, 0xFF#8]

/-! The results and flags the statements name, in exact arithmetic. -/

/-- ADC's effect on A and the flags (41_arithmetic_logic.md R160). -/
def adcResult (v : Byte) (r : State) : State :=
  let sum := r.a.toNat + v.toNat + r.p.c.toNat
  let a := BitVec.ofNat 8 sum
  { r with
    a := a
    p := { withZN r.p a with
      c := decide (0x100 ≤ sum)
      v := decide (r.a.getLsbD 7 = v.getLsbD 7 ∧ a.getLsbD 7 ≠ r.a.getLsbD 7) } }

/-- SBC's effect on A and the flags (R161): `A - M - (1 - C)`. -/
def sbcResult (v : Byte) (r : State) : State :=
  let borrow := 1 - r.p.c.toNat
  let a := BitVec.ofInt 8 ((r.a.toNat : Int) - v.toNat - borrow)
  { r with
    a := a
    p := { withZN r.p a with
      c := decide (v.toNat + borrow ≤ r.a.toNat)
      v := decide (r.a.getLsbD 7 ≠ v.getLsbD 7 ∧ a.getLsbD 7 ≠ r.a.getLsbD 7) } }

/-- The flags of a compare (R165). -/
def compareResult (p : Status) (reg v : Byte) : Status :=
  { withZN p (reg - v) with c := decide (v.toNat ≤ reg.toNat) }

/-- ASL (42_shift_incdec.md R180). -/
def aslResult (v : Byte) (_ : Status) : Byte := BitVec.ofNat 8 (2 * v.toNat)
/-- LSR (R181). -/
def lsrResult (v : Byte) (_ : Status) : Byte := BitVec.ofNat 8 (v.toNat / 2)
/-- ROL (R182). -/
def rolResult (v : Byte) (p : Status) : Byte := BitVec.ofNat 8 (2 * v.toNat + p.c.toNat)
/-- ROR (R183). -/
def rorResult (v : Byte) (p : Status) : Byte := BitVec.ofNat 8 (v.toNat / 2 + 0x80 * p.c.toNat)
/-- INC, INX, INY (R184, R186, R187). -/
def incResult (v : Byte) (_ : Status) : Byte := BitVec.ofNat 8 (v.toNat + 1)
/-- DEC, DEX, DEY (R185, R188, R189). -/
def decResult (v : Byte) (_ : Status) : Byte := BitVec.ofNat 8 (v.toNat + 0xFF)
/-- The flags of ASL: C is the old bit 7. -/
def aslFlags (v : Byte) (p : Status) : Status := withZN { p with c := decide (0x80 ≤ v.toNat) } (aslResult v p)
/-- The flags of LSR: C is the old bit 0. -/
def lsrFlags (v : Byte) (p : Status) : Status := withZN { p with c := decide (v.toNat % 2 = 1) } (lsrResult v p)
/-- The flags of ROL. -/
def rolFlags (v : Byte) (p : Status) : Status := withZN { p with c := decide (0x80 ≤ v.toNat) } (rolResult v p)
/-- The flags of ROR. -/
def rorFlags (v : Byte) (p : Status) : Status := withZN { p with c := decide (v.toNat % 2 = 1) } (rorResult v p)

/-- The six flags of a pulled byte (00_scope.md R11 `UnpackP`), U set and B clear. -/
def statusOf (v : Byte) : Status :=
  { n := decide (v.toNat / 128 % 2 = 1), v := decide (v.toNat / 64 % 2 = 1), u := true, b := false
    d := decide (v.toNat / 8 % 2 = 1), i := decide (v.toNat / 4 % 2 = 1), z := decide (v.toNat / 2 % 2 = 1)
    c := decide (v.toNat % 2 = 1) }

/-- Work RAM after an interrupt entry: PCH at SP, PCL and the status byte below it (60_exceptions.md R312). -/
def interruptFrame (ram : Memory) (sp : Byte) (ret : Addr) (status : Byte) : Memory :=
  memWrite (memWrite (memWrite ram (stackIndex sp) (BitVec.ofNat 8 (ret.toNat / 0x100)))
    (stackIndex (sp - 1#8)) (BitVec.ofNat 8 (ret.toNat % 0x100))) (stackIndex (sp - 2#8)) status

/-- The nametable byte of a VRAM address (49_video_timing_unit.md R272, and the opposite assignment of log 5). -/
def nametableByte (fold : NtFold) (mirroring : Mirroring) (n : Nat) : Nat :=
  let half := match fold, mirroring with
    | .rowPairs, .horizontal => n / 0x800 % 2
    | .rowPairs, .vertical => n / 0x400 % 2
    | .squarePairs, .horizontal => n / 0x400 % 2
    | .squarePairs, .vertical => n / 0x800 % 2
  half * 0x400 + n % 0x400

/-- The palette byte of a VRAM address (R273). -/
def paletteByte (n : Nat) : Nat :=
  let i := n % 32
  if i = 16 ∨ i = 20 ∨ i = 24 ∨ i = 28 then i - 16 else i

/-! The ROM image (20_memory.md R88, R89). -/

/-- The image begins with the four signature bytes. -/
abbrev signed (image : List Byte) : Prop := image.take 4 = [0x4E#8, 0x45#8, 0x53#8, 0x1A#8]

/-- The header is extended (byte 7 bits 3 to 2 are 0b10), or its bytes 12 to 15 are zero. -/
abbrev tailAllowed (image : List Byte) : Prop :=
  (image.getD 7 0#8).toNat / 4 % 4 = 2 ∨ ∀ k, 12 ≤ k → k < 16 → image.getD k 0#8 = 0#8

/-- The bytes of the trainer block: 512 when byte 6 bit 2 is set. -/
def trainerLength (image : List Byte) : Nat := if (image.getD 6 0#8).getLsbD 2 = true then 512 else 0

/-- The length the header claims: header, trainer, program banks, graphics banks. -/
def claimedLength (image : List Byte) : Nat :=
  16 + trainerLength image + 16384 * (image.getD 4 0#8).toNat + 8192 * (image.getD 5 0#8).toNat

/-- A branch (43_branch_jump.md R200) under a condition. -/
def BranchForm (op : Byte) (mn : Mnemonic) (make : Byte → Instr) (cond : State → Bool) : Prop :=
  Encodes2 op mn .rel 2 false make ∧
  ∀ (s : State) (rel : Byte),
    let target : Addr := BitVec.ofInt 16 ((s.pc.toNat : Int) + rel.toInt)
    (cond s = true → exec (make rel) s = .next { s with
      pc := target
      scratch := { s.scratch with
        ea := target, extra := s.scratch.extra + (if page target = page s.pc then 1 else 2) } }) ∧
    (cond s = false → exec (make rel) s = .next { s with scratch := { s.scratch with ea := target } })

end Sys2Proof.Safety
end

