-- ==== Sys2Proof/Certificates/Slice0/Obligations.lean ====
section
/-! DEFINITION. The statements about the machine that the provers settle. Each docstring says what it claims and the rules of
spec/ it rests on; where a clause rests on a choice the spec marks as its own or on a log entry, it says so. -/

open Sys2Proof
open Sys2Proof.Machine
open Sys2Proof.Safety

/-! Encoding. -/

/-- For words written bit by bit from the encodings of the opcode map, at least one for every family (LDA #$10,
LDX $10,Y, LDA $1234 and its indexed forms, STA (zp),Y, ADC #$50, BIT $2002, ASL A, INC $10, BNE *-3, JMP
($02FF), JSR, PHP, BRK, RTI), the decoder answers exactly that instruction and no byte is left. Rests on:
30_encoding.md section 4 (R108), 30_encoding.md R105. -/
def Obligations.SampleWordsDecodeAsWritten : Prop :=
  decode [0xA9#8, 0x10#8] = .ok (.ldaImm 0x10#8, []) ∧
  decode [0xB6#8, 0x10#8] = .ok (.ldxZpy 0x10#8, []) ∧
  decode [0xAD#8, 0x34#8, 0x12#8] = .ok (.ldaAbs 0x1234#16, []) ∧
  decode [0xBD#8, 0x34#8, 0x12#8] = .ok (.ldaAbx 0x1234#16, []) ∧
  decode [0xB9#8, 0x34#8, 0x12#8] = .ok (.ldaAby 0x1234#16, []) ∧
  decode [0xA1#8, 0x10#8] = .ok (.ldaIzx 0x10#8, []) ∧
  decode [0x91#8, 0x10#8] = .ok (.staIzy 0x10#8, []) ∧
  decode [0x69#8, 0x50#8] = .ok (.adcImm 0x50#8, []) ∧
  decode [0x2C#8, 0x02#8, 0x20#8] = .ok (.bitAbs 0x2002#16, []) ∧
  decode [0x0A#8] = .ok (.aslAcc, []) ∧
  decode [0xE6#8, 0x10#8] = .ok (.incZp 0x10#8, []) ∧
  decode [0xD0#8, 0xFB#8] = .ok (.bne 0xFB#8, []) ∧
  decode [0x6C#8, 0xFF#8, 0x02#8] = .ok (.jmpInd 0x02FF#16, []) ∧
  decode [0x20#8, 0x10#8, 0x80#8] = .ok (.jsr 0x8010#16, []) ∧
  decode [0x08#8] = .ok (.php, []) ∧
  decode [0x00#8] = .ok (.brk, []) ∧
  decode [0x40#8] = .ok (.rti, [])

/-- For every instruction of the 151 rows, with every operand value, and for every list of bytes after it,
decoding its encoding followed by those bytes answers that instruction and exactly those bytes. Rests on:
30_encoding.md R101, 30_encoding.md R105, 30_encoding.md R103. -/
def Obligations.DecodeOfEncodeIsTheInstruction : Prop :=
  ∀ (i : Instr) (rest : List Byte), i.wf = true → decode (encode i ++ rest) = .ok (i, rest)

/-- Whenever a list of bytes decodes to an instruction with some bytes left over, the list is the encoding of that
instruction followed by the bytes left: no bit of the opcode map is read twice or dropped, and no two
encodings stand for one instruction. Rests on: 30_encoding.md R100, 30_encoding.md R105. -/
def Obligations.DecodedBytesAreTheEncoding : Prop :=
  ∀ (bytes rest : List Byte) (i : Instr), decode bytes = .ok (i, rest) → bytes = encode i ++ rest

/-- A byte has no row in the opcode map exactly when it is one of the 105 bytes R106 lists; and from every state
with no fault recorded, no host call due and no wait left, if PC points at a stored byte that is one of them,
the step stops with the fault IllegalOpcode carrying that byte and the address it was fetched from; the same
holds of such a byte wherever the bus read at PC answers it from, a VTU register included. Rests on: R106,
R302. -/
def Obligations.UndefinedOpcodesStopTheMachine : Prop :=
  (∀ op : Byte, opRow op = none ↔ op ∈ undefinedOpcodes) ∧
  undefinedOpcodes.length = 105 ∧
  (∀ (s : State) (op : Byte), Quiet s → s.cyc = 0 → byteAt s s.pc = some op → op ∈ undefinedOpcodes →
    step s = .fault (.illegalOpcode op s.pc)) ∧
  (∀ (s t : State) (op : Byte), Quiet s → s.cyc = 0 → busRead s.pc s = .next (op, t) → op ∈ undefinedOpcodes →
    step s = .fault (.illegalOpcode op s.pc))

/-! The step. -/

/-- From every state with no fault recorded, no host call due and cyc = 0: if the bytes stored from PC on are the
encoding of instruction i, the step is exec of i at the state whose PC is past those bytes and whose scratch
holds the opcode, the mode, a clear page-crossed flag and no extra cycles, then cyc loaded with base count,
page penalty and extra cycles, then three VTU ticks. And whatever region the bytes are fetched from, if the
fetch answers an instruction, the step runs exactly that one. That exec stands after the fetch, with PC past
the bytes, is the model's cut of the tick (log entry 13, DEDUCED); that the step takes the first entry off the
script of host calls is the model's choice (log entry 8). Rests on: 10_state.md R40, 70_reset_and_hazards.md
R350, 10_state.md R24. -/
def Obligations.StepRunsTheDecodedInstruction : Prop :=
  (∀ (s : State) (i : Instr), Quiet s → s.cyc = 0 → i.wf = true →
    (∀ (k : Nat) (b : Byte), (encode i)[k]? = some b → byteAt s (s.pc + BitVec.ofNat 16 k) = some b) →
    ∃ row, (encode i).head? = some row.opcode ∧ opRow row.opcode = some row ∧
      step s = Res.andThen
        (exec i { s with
          pc := s.pc + BitVec.ofNat 16 (encode i).length
          hostCalls := s.hostCalls.tail
          scratch := { s.scratch with opcode := row.opcode, mode := row.mode, pageCrossed := false, extra := 0 } })
        (fun t => clockTicks 3 { t with
          cyc := row.cycles + (if t.scratch.pageCrossed = true ∧ row.penalty = true then 1 else 0) + t.scratch.extra })) ∧
  (∀ (s : State) (f : Fetched), Quiet s → s.cyc = 0 → fetchInstr { s with hostCalls := s.hostCalls.tail } = .next f →
    step s = Res.andThen (exec f.instr f.state)
      (fun t => clockTicks 3 { t with
        cyc := f.row.cycles + (if t.scratch.pageCrossed = true ∧ f.row.penalty = true then 1 else 0) + t.scratch.extra }))

/-- From every state with no fault recorded and no host call due whose cyc is c + 1, the step is three VTU ticks
of the state with cyc = c; in particular no instruction byte is fetched. That a waiting step takes the first
entry off the script of host calls is the model's choice (log entry 8). Rests on: 10_state.md R40, 10_state.md
R41, 70_reset_and_hazards.md R350. -/
def Obligations.WaitingStepOnlyCountsDown : Prop :=
  ∀ (s : State) (c : Nat), Quiet s → s.cyc = c + 1 →
    step s = clockTicks 3 { s with cyc := c, hostCalls := s.hostCalls.tail }

/-- From every state with no fault recorded whose script begins with a list of calls, the step makes those calls
in order at the state with that entry taken off, then runs the processor tick and the three VTU ticks. That
the calls are a script in the state is the model's choice (log entry 8). Rests on: 60_exceptions.md R309,
60_exceptions.md R311, 70_reset_and_hazards.md R350. -/
def Obligations.HostCallsComeBeforeTheStep : Prop :=
  ∀ (s : State) (calls : List Signal) (later : List (List Signal)), s.fault = none → s.hostCalls = calls :: later →
    step s = Res.andThen (signals calls { s with hostCalls := later }) (fun t => Res.andThen (tick t) (clockTicks 3)) ∧
    (∀ c rest, calls = c :: rest →
      signals calls { s with hostCalls := later } =
        Res.andThen (signal c { s with hostCalls := later }) (signals rest))

/-- In the machine seen as a total function of its state: a step that stops with a fault records it; with a fault
recorded the step answers that fault, the next state is the same state, and Reset, Irq and Nmi leave the state
unchanged. What else the state holds at a fault is the model's choice (log entry 7; the spec marks R44 and
R301 as decision D11). Rests on: 10_state.md R44, 60_exceptions.md R301. -/
def Obligations.FaultIsFinal : Prop :=
  (∀ (s : State) (f : Fault), s.fault = some f →
    step s = .fault f ∧ advance s = s ∧ irq s = .next s ∧ nmi s = .next s ∧ resetSignal s = .next s) ∧
  (∀ (s : State) (f : Fault), step s = .fault f →
    (advance s).fault = some f ∧ advance (advance s) = advance s) ∧
  (∀ (s t : State), step s = .next t → advance s = t ∧ t.fault = none)

/-! The bus. -/

/-- A bus read answers a byte exactly at the readable addresses. Where it does not: in the ROM window without a
cartridge it faults MissingCartridge with the bus address; at the data port it faults MissingCartridge with
the VTU address when there is no cartridge, and ChrOutOfRange with it when the cartridge has no such graphics
bank. The stop for nametable space without a cartridge is the model's (log entry 9). Rests on: 20_memory.md
R60, 20_memory.md R61, 20_memory.md R86, 20_memory.md R91. -/
def Obligations.BusReadCompletesExactlyWhenReadable : Prop :=
  ∀ (s : State) (a : Addr),
    (readable s a = true → ∃ v t, busRead a s = .next (v, t)) ∧
    (readable s a = false → 0x8000 ≤ a.toNat → busRead a s = .fault (.missingCartridge a.toNat)) ∧
    (readable s a = false → a.toNat < 0x8000 → s.cart = none →
      busRead a s = .fault (.missingCartridge (portVramAddr s))) ∧
    (readable s a = false → a.toNat < 0x8000 → s.cart ≠ none →
      busRead a s = .fault (.chrOutOfRange (BitVec.ofNat 14 (portVramAddr s))))

/-- A bus write answers a next state exactly at the writable addresses. A write to a mirror of register 2 faults
ReadOnlyRegisterWrite with the value and the bus address; a write to the ROM window, or through the data port
into pattern or nametable space, faults MissingCartridge when no cartridge is inserted (the write case is the
model's, log entry 9). Rests on: 20_memory.md R62, 49_video_timing_unit.md R261, 60_exceptions.md R303,
20_memory.md R91. -/
def Obligations.BusWriteCompletesExactlyWhenWritable : Prop :=
  ∀ (s : State) (a : Addr) (v : Byte),
    (writable s a = true → ∃ t, busWrite a v s = .next t) ∧
    (writable s a = false → 0x8000 ≤ a.toNat → busWrite a v s = .fault (.missingCartridge a.toNat)) ∧
    (writable s a = false → a.toNat < 0x8000 → a.toNat % 8 = 2 →
      busWrite a v s = .fault (.readOnlyRegisterWrite v a)) ∧
    (writable s a = false → a.toNat < 0x8000 → a.toNat % 8 ≠ 2 →
      busWrite a v s = .fault (.missingCartridge (portVramAddr s)))

/-- For all addresses below 0x2000 that agree modulo 0x0800, a byte written at one is read at the other; and a
byte written at an address of 0x4000 to 0x7FFF is read back there. Neither access stops, and the read changes
nothing. Rests on: R64, R66. -/
def Obligations.RamAndPlainRamHoldWhatIsStored : Prop :=
  (∀ (s : State) (a b : Addr) (v : Byte), a.toNat < 0x2000 → b.toNat < 0x2000 → a.toNat % 0x800 = b.toNat % 0x800 →
    ∃ t, busWrite a v s = .next t ∧ busRead b t = .next (v, t)) ∧
  (∀ (s : State) (a : Addr) (v : Byte), 0x4000 ≤ a.toNat → a.toNat < 0x8000 →
    ∃ t, busWrite a v s = .next t ∧ busRead a t = .next (v, t))

/-- With a cartridge, a read at 0x8000 to 0xFFFF answers the program byte at addr - 0x8000 (two banks) or (addr -
0x8000) mod 0x4000 (one bank) and changes nothing, and a write there leaves the state as it was. Rests on:
R85, R68. -/
def Obligations.RomWindowReadsBanksAndIgnoresWrites : Prop :=
  ∀ (s : State) (c : Cartridge) (a : Addr), s.cart = some c → 0x8000 ≤ a.toNat →
    (c.prgBanks = .two → busRead a s = .next (memRead c.prg (a.toNat - 0x8000), s)) ∧
    (c.prgBanks = .one → busRead a s = .next (memRead c.prg ((a.toNat - 0x8000) % 0x4000), s)) ∧
    (∀ v, busWrite a v s = .next s)

/-- For two addresses of the register window that agree modulo 8, reading either gives the same value and the same
next state, and writing a byte at either gives the same next state (a write to register 2 faults at both, each
with its own bus address). Rests on: R65. -/
def Obligations.RegisterWindowMirrorsEveryEightBytes : Prop :=
  ∀ (s : State) (a b : Addr), 0x2000 ≤ a.toNat → a.toNat < 0x4000 → 0x2000 ≤ b.toNat → b.toNat < 0x4000 →
    a.toNat % 8 = b.toNat % 8 →
    busRead a s = busRead b s ∧
    (a.toNat % 8 ≠ 2 → ∀ v, busWrite a v s = busWrite b v s) ∧
    (a.toNat % 8 = 2 → ∀ v, busWrite a v s = .fault (.readOnlyRegisterWrite v a) ∧
      busWrite b v s = .fault (.readOnlyRegisterWrite v b))

/-- When a bus write answers a next state: processor registers, flags, cyc, scratch, fault record, cartridge and
configuration are unchanged; every stored byte that is not the written one (nor a mirror of it) reads as
before; in RAM and plain RAM the written byte reads as the value; outside the register window the VTU is
unchanged, and inside it no stored byte changes. Rests on: 20_memory.md R62, 20_memory.md R63, 20_memory.md
R77. -/
def Obligations.BusWriteChangesOnlyItsByte : Prop :=
  ∀ (s t : State) (a : Addr) (v : Byte), busWrite a v s = .next t →
    t = { s with ram := t.ram, xram := t.xram, vtu := t.vtu } ∧
    (∀ b, ¬ sameByte a b → byteAt t b = byteAt s b) ∧
    (a.toNat < 0x2000 ∨ (0x4000 ≤ a.toNat ∧ a.toNat < 0x8000) → byteAt t a = some v ∧ t.vtu = s.vtu) ∧
    (0x2000 ≤ a.toNat ∧ a.toNat < 0x4000 → ∀ b, byteAt t b = byteAt s b) ∧
    (0x8000 ≤ a.toNat → t = s)

/-- When a bus read answers, the next state is the same state except perhaps for the VTU; outside mirrors of
0x2002 and 0x2007 it is the same state; where a byte is stored the value is that byte; a write-only register
reads 0x00. Rests on: 20_memory.md R61, 20_memory.md R73, 49_video_timing_unit.md R256. -/
def Obligations.BusReadHasOnlyTheListedSideEffects : Prop :=
  ∀ (s t : State) (a : Addr) (v : Byte), busRead a s = .next (v, t) →
    t = { s with vtu := t.vtu } ∧
    (∀ b, byteAt s a = some b → v = b ∧ t = s) ∧
    (0x2000 ≤ a.toNat → a.toNat < 0x4000 → a.toNat % 8 ≠ 2 → a.toNat % 8 ≠ 7 → v = 0x00#8 ∧ t = s) ∧
    (t.vtu.nt = s.vtu.nt ∧ t.vtu.pal = s.vtu.pal ∧ t.vtu.oam = s.vtu.oam ∧ t.vtu.ctrl = s.vtu.ctrl ∧
      t.vtu.mask = s.vtu.mask ∧ t.vtu.oamAddr = s.vtu.oamAddr ∧ t.vtu.t = s.vtu.t ∧ t.vtu.cycle = s.vtu.cycle ∧
      t.vtu.scanline = s.vtu.scanline)

/-- The bus entries that take a natural number fault BusAddressOutOfRange with the address when it exceeds 0xFFFF,
and otherwise are the 16-bit bus access. That these entries exist beside the 16-bit bus is the model's device
(log entry 11, DEDUCED): no step calls them. Rests on: 20_memory.md R69, 60_exceptions.md R300. -/
def Obligations.WideBusAddressFaults : Prop :=
  ∀ (n : Nat) (v : Byte) (s : State),
    (0xFFFF < n → busReadAt n s = .fault (.busAddressOutOfRange n) ∧ busWriteAt n v s = .fault (.busAddressOutOfRange n)) ∧
    (∀ a : Addr, busReadAt a.toNat s = busRead a s ∧ busWriteAt a.toNat v s = busWrite a v s)

/-! Loads, stores, transfers. -/

/-- For every state and operand, each form of LDA reads its operand byte once at its effective address and
completes with A that byte, Z and N from it. A form whose operand read stops stops with the same fault.
Nothing else changes but what that read changes (frame), and the scratch of the tick. For every form the
opcode byte, mode, base cycles and page penalty are the ones the rule lists. Rests on: R140. -/
def Obligations.LdaEveryForm : Prop :=
  ImmForm 0xA9#8 .lda .ldaImm (fun v r => { r with a := v, p := withZN r.p v }) ∧
  ReadForm2 0xA5#8 .lda Safety.zp 3 false .ldaZp (fun v r => { r with a := v, p := withZN r.p v }) ∧
  ReadForm2 0xB5#8 .lda Safety.zpx 4 false .ldaZpx (fun v r => { r with a := v, p := withZN r.p v }) ∧
  ReadForm3 0xAD#8 .lda Safety.abs 4 false .ldaAbs (fun v r => { r with a := v, p := withZN r.p v }) ∧
  ReadForm3 0xBD#8 .lda Safety.abx 4 true .ldaAbx (fun v r => { r with a := v, p := withZN r.p v }) ∧
  ReadForm3 0xB9#8 .lda Safety.aby 4 true .ldaAby (fun v r => { r with a := v, p := withZN r.p v }) ∧
  ReadForm2 0xA1#8 .lda Safety.izx 6 false .ldaIzx (fun v r => { r with a := v, p := withZN r.p v }) ∧
  ReadForm2 0xB1#8 .lda Safety.izy 5 true .ldaIzy (fun v r => { r with a := v, p := withZN r.p v })

/-- For every state and operand, each form of LDX and LDY reads its operand byte once and completes with X (Y)
that byte, Z and N from it. A form whose operand read stops stops with the same fault. Nothing else changes
but what that read changes (frame), and the scratch of the tick. For every form the opcode byte, mode, base
cycles and page penalty are the ones the rule lists. Rests on: R141, R142. -/
def Obligations.LdxAndLdyEveryForm : Prop :=
  ImmForm 0xA2#8 .ldx .ldxImm (fun v r => { r with x := v, p := withZN r.p v }) ∧
  ReadForm2 0xA6#8 .ldx Safety.zp 3 false .ldxZp (fun v r => { r with x := v, p := withZN r.p v }) ∧
  ReadForm2 0xB6#8 .ldx Safety.zpy 4 false .ldxZpy (fun v r => { r with x := v, p := withZN r.p v }) ∧
  ReadForm3 0xAE#8 .ldx Safety.abs 4 false .ldxAbs (fun v r => { r with x := v, p := withZN r.p v }) ∧
  ReadForm3 0xBE#8 .ldx Safety.aby 4 true .ldxAby (fun v r => { r with x := v, p := withZN r.p v }) ∧
  ImmForm 0xA0#8 .ldy .ldyImm (fun v r => { r with y := v, p := withZN r.p v }) ∧
  ReadForm2 0xA4#8 .ldy Safety.zp 3 false .ldyZp (fun v r => { r with y := v, p := withZN r.p v }) ∧
  ReadForm2 0xB4#8 .ldy Safety.zpx 4 false .ldyZpx (fun v r => { r with y := v, p := withZN r.p v }) ∧
  ReadForm3 0xAC#8 .ldy Safety.abs 4 false .ldyAbs (fun v r => { r with y := v, p := withZN r.p v }) ∧
  ReadForm3 0xBC#8 .ldy Safety.abx 4 true .ldyAbx (fun v r => { r with y := v, p := withZN r.p v })

/-- For every state and operand, each form of STA, STX and STY writes its register once at its effective address
and completes with the state that bus write gives; flags and registers are unchanged; at an address whose
write stops (the status register, a missing cartridge) it stops with the same fault. That a store with no
cartridge stops rests on R91 (the spec's decision D13) and, for writes, is the model's reading of it (log
entry 9, DEDUCED). Together with BusWriteChangesOnlyItsByte this is the frame: every other byte reads as
before. For every form the opcode byte, mode, base cycles and page penalty are the ones the rule lists. Rests
on: 40_load_store_transfer.md R143, 40_load_store_transfer.md R144, 40_load_store_transfer.md R145,
20_memory.md R91. -/
def Obligations.StoresEveryForm : Prop :=
  StoreForm2 0x85#8 .sta Safety.zp 3 .staZp State.a ∧
  StoreForm2 0x95#8 .sta Safety.zpx 4 .staZpx State.a ∧
  StoreForm3 0x8D#8 .sta Safety.abs 4 .staAbs State.a ∧
  StoreForm3 0x9D#8 .sta Safety.abx 5 .staAbx State.a ∧
  StoreForm3 0x99#8 .sta Safety.aby 5 .staAby State.a ∧
  StoreForm2 0x81#8 .sta Safety.izx 6 .staIzx State.a ∧
  StoreForm2 0x91#8 .sta Safety.izy 6 .staIzy State.a ∧
  StoreForm2 0x86#8 .stx Safety.zp 3 .stxZp State.x ∧
  StoreForm2 0x96#8 .stx Safety.zpy 4 .stxZpy State.x ∧
  StoreForm3 0x8E#8 .stx Safety.abs 4 .stxAbs State.x ∧
  StoreForm2 0x84#8 .sty Safety.zp 3 .styZp State.y ∧
  StoreForm2 0x94#8 .sty Safety.zpx 4 .styZpx State.y ∧
  StoreForm3 0x8C#8 .sty Safety.abs 4 .styAbs State.y

/-- For every state and operand and every form of STA, STX and STY that completes: every bus address that is not
the effective address (nor a mirror of it in work RAM) reads the stored byte it read before, and the stored
byte at an effective address in RAM or plain RAM is the register. Rests on: 40_load_store_transfer.md R143,
40_load_store_transfer.md R144, 40_load_store_transfer.md R145, 20_memory.md R64, 20_memory.md R66. -/
def Obligations.StoresKeepEveryOtherByte : Prop :=
  ∀ (s : State) (z : Byte) (w : Addr),
    let keeps := fun (i : Instr) (ea : Addr) (reg : Byte) => ∀ t, exec i s = .next t →
      (∀ b, ¬ sameByte ea b → byteAt t b = byteAt s b) ∧
      (ea.toNat < 0x2000 ∨ (0x4000 ≤ ea.toNat ∧ ea.toNat < 0x8000) → byteAt t ea = some reg)
    keeps (.staZp z) (Safety.zp.ea s z) s.a ∧
    keeps (.staZpx z) (Safety.zpx.ea s z) s.a ∧
    keeps (.staAbs w) (Safety.abs.ea s w) s.a ∧
    keeps (.staAbx w) (Safety.abx.ea s w) s.a ∧
    keeps (.staAby w) (Safety.aby.ea s w) s.a ∧
    keeps (.staIzx z) (Safety.izx.ea s z) s.a ∧
    keeps (.staIzy z) (Safety.izy.ea s z) s.a ∧
    keeps (.stxZp z) (Safety.zp.ea s z) s.x ∧
    keeps (.stxZpy z) (Safety.zpy.ea s z) s.x ∧
    keeps (.stxAbs w) (Safety.abs.ea s w) s.x ∧
    keeps (.styZp z) (Safety.zp.ea s z) s.y ∧
    keeps (.styZpx z) (Safety.zpx.ea s z) s.y ∧
    keeps (.styAbs w) (Safety.abs.ea s w) s.y

/-- From every state each transfer completes with its destination register equal to the source, Z and N from it
(TXS: no flag), and nothing else changed. For every form the opcode byte, mode, base cycles and page penalty
are the ones the rule lists. Rests on: R146, R147, R148, R149, R150, R151. -/
def Obligations.TransfersCopyRegisters : Prop :=
  PlainForm 0xAA#8 .tax .imp 2 .tax (fun s => { s with x := s.a, p := withZN s.p s.a }) ∧
  PlainForm 0xA8#8 .tay .imp 2 .tay (fun s => { s with y := s.a, p := withZN s.p s.a }) ∧
  PlainForm 0x8A#8 .txa .imp 2 .txa (fun s => { s with a := s.x, p := withZN s.p s.x }) ∧
  PlainForm 0x98#8 .tya .imp 2 .tya (fun s => { s with a := s.y, p := withZN s.p s.y }) ∧
  PlainForm 0xBA#8 .tsx .imp 2 .tsx (fun s => { s with x := s.sp, p := withZN s.p s.sp }) ∧
  PlainForm 0x9A#8 .txs .imp 2 .txs (fun s => { s with sp := s.x })

/-! Arithmetic, logic, compare. -/

/-- For every state and operand, each form of ADC reads its operand once and completes with A the sum of A, the
operand and the carry modulo 256, C set exactly when the sum exceeds 255, V set exactly when both inputs have
the sign the result lacks, Z and N from the result; D plays no part. A form whose operand read stops stops
with the same fault. Nothing else changes but what that read changes (frame), and the scratch of the tick. For
every form the opcode byte, mode, base cycles and page penalty are the ones the rule lists. Rests on: R160. -/
def Obligations.AdcEveryForm : Prop :=
  ImmForm 0x69#8 .adc .adcImm adcResult ∧
  ReadForm2 0x65#8 .adc Safety.zp 3 false .adcZp adcResult ∧
  ReadForm2 0x75#8 .adc Safety.zpx 4 false .adcZpx adcResult ∧
  ReadForm3 0x6D#8 .adc Safety.abs 4 false .adcAbs adcResult ∧
  ReadForm3 0x7D#8 .adc Safety.abx 4 true .adcAbx adcResult ∧
  ReadForm3 0x79#8 .adc Safety.aby 4 true .adcAby adcResult ∧
  ReadForm2 0x61#8 .adc Safety.izx 6 false .adcIzx adcResult ∧
  ReadForm2 0x71#8 .adc Safety.izy 5 true .adcIzy adcResult

/-- For every state and operand, each form of SBC reads its operand once and completes with A = A - M - (1 - C)
modulo 256, C set exactly when there is no borrow, V set exactly when A and M differ in sign and the result
has not the sign of A, Z and N from the result; D plays no part. A form whose operand read stops stops with
the same fault. Nothing else changes but what that read changes (frame), and the scratch of the tick. For
every form the opcode byte, mode, base cycles and page penalty are the ones the rule lists. Rests on: R161. -/
def Obligations.SbcEveryForm : Prop :=
  ImmForm 0xE9#8 .sbc .sbcImm sbcResult ∧
  ReadForm2 0xE5#8 .sbc Safety.zp 3 false .sbcZp sbcResult ∧
  ReadForm2 0xF5#8 .sbc Safety.zpx 4 false .sbcZpx sbcResult ∧
  ReadForm3 0xED#8 .sbc Safety.abs 4 false .sbcAbs sbcResult ∧
  ReadForm3 0xFD#8 .sbc Safety.abx 4 true .sbcAbx sbcResult ∧
  ReadForm3 0xF9#8 .sbc Safety.aby 4 true .sbcAby sbcResult ∧
  ReadForm2 0xE1#8 .sbc Safety.izx 6 false .sbcIzx sbcResult ∧
  ReadForm2 0xF1#8 .sbc Safety.izy 5 true .sbcIzy sbcResult

/-- For every state and operand, after ADC immediate A + 256*C is the exact unsigned sum and V says that the exact
signed sum leaves -128..127; after SBC immediate A = M's exact unsigned difference plus 256 when C is clear,
and V says that the exact signed difference leaves -128..127. Rests on: 41_arithmetic_logic.md R160,
41_arithmetic_logic.md R161, 41_arithmetic_logic.md R169, 10_state.md R32. -/
def Obligations.AddAndSubtractAreExactUpToFlags : Prop :=
  ∀ (s : State) (m : Byte),
    (∃ t, exec (.adcImm m) s = .next t ∧
      t.a.toNat + 256 * t.p.c.toNat = s.a.toNat + m.toNat + s.p.c.toNat ∧
      (t.p.v = true ↔ s.a.toInt + m.toInt + s.p.c.toNat < -128 ∨ 127 < s.a.toInt + m.toInt + s.p.c.toNat)) ∧
    (∃ t, exec (.sbcImm m) s = .next t ∧
      (t.a.toNat : Int) = s.a.toNat - m.toNat - (1 - s.p.c.toNat) + 256 * (1 - t.p.c.toNat) ∧
      (t.p.v = true ↔
        s.a.toInt - m.toInt - (1 - s.p.c.toNat) < -128 ∨ 127 < s.a.toInt - m.toInt - (1 - s.p.c.toNat)))

/-- For every state and operand, each form of AND, ORA and EOR reads its operand once and completes with A
combined bit by bit, Z and N from the result, C and V unchanged. A form whose operand read stops stops with
the same fault. Nothing else changes but what that read changes (frame), and the scratch of the tick. For
every form the opcode byte, mode, base cycles and page penalty are the ones the rule lists. Rests on: R162,
R163, R164. -/
def Obligations.LogicEveryForm : Prop :=
  ImmForm 0x29#8 .and .andImm (fun v r => { r with a := r.a &&& v, p := withZN r.p (r.a &&& v) }) ∧
  ReadForm2 0x25#8 .and Safety.zp 3 false .andZp (fun v r => { r with a := r.a &&& v, p := withZN r.p (r.a &&& v) }) ∧
  ReadForm2 0x35#8 .and Safety.zpx 4 false .andZpx (fun v r => { r with a := r.a &&& v, p := withZN r.p (r.a &&& v) }) ∧
  ReadForm3 0x2D#8 .and Safety.abs 4 false .andAbs (fun v r => { r with a := r.a &&& v, p := withZN r.p (r.a &&& v) }) ∧
  ReadForm3 0x3D#8 .and Safety.abx 4 true .andAbx (fun v r => { r with a := r.a &&& v, p := withZN r.p (r.a &&& v) }) ∧
  ReadForm3 0x39#8 .and Safety.aby 4 true .andAby (fun v r => { r with a := r.a &&& v, p := withZN r.p (r.a &&& v) }) ∧
  ReadForm2 0x21#8 .and Safety.izx 6 false .andIzx (fun v r => { r with a := r.a &&& v, p := withZN r.p (r.a &&& v) }) ∧
  ReadForm2 0x31#8 .and Safety.izy 5 true .andIzy (fun v r => { r with a := r.a &&& v, p := withZN r.p (r.a &&& v) }) ∧
  ImmForm 0x09#8 .ora .oraImm (fun v r => { r with a := r.a ||| v, p := withZN r.p (r.a ||| v) }) ∧
  ReadForm2 0x05#8 .ora Safety.zp 3 false .oraZp (fun v r => { r with a := r.a ||| v, p := withZN r.p (r.a ||| v) }) ∧
  ReadForm2 0x15#8 .ora Safety.zpx 4 false .oraZpx (fun v r => { r with a := r.a ||| v, p := withZN r.p (r.a ||| v) }) ∧
  ReadForm3 0x0D#8 .ora Safety.abs 4 false .oraAbs (fun v r => { r with a := r.a ||| v, p := withZN r.p (r.a ||| v) }) ∧
  ReadForm3 0x1D#8 .ora Safety.abx 4 true .oraAbx (fun v r => { r with a := r.a ||| v, p := withZN r.p (r.a ||| v) }) ∧
  ReadForm3 0x19#8 .ora Safety.aby 4 true .oraAby (fun v r => { r with a := r.a ||| v, p := withZN r.p (r.a ||| v) }) ∧
  ReadForm2 0x01#8 .ora Safety.izx 6 false .oraIzx (fun v r => { r with a := r.a ||| v, p := withZN r.p (r.a ||| v) }) ∧
  ReadForm2 0x11#8 .ora Safety.izy 5 true .oraIzy (fun v r => { r with a := r.a ||| v, p := withZN r.p (r.a ||| v) }) ∧
  ImmForm 0x49#8 .eor .eorImm (fun v r => { r with a := r.a ^^^ v, p := withZN r.p (r.a ^^^ v) }) ∧
  ReadForm2 0x45#8 .eor Safety.zp 3 false .eorZp (fun v r => { r with a := r.a ^^^ v, p := withZN r.p (r.a ^^^ v) }) ∧
  ReadForm2 0x55#8 .eor Safety.zpx 4 false .eorZpx (fun v r => { r with a := r.a ^^^ v, p := withZN r.p (r.a ^^^ v) }) ∧
  ReadForm3 0x4D#8 .eor Safety.abs 4 false .eorAbs (fun v r => { r with a := r.a ^^^ v, p := withZN r.p (r.a ^^^ v) }) ∧
  ReadForm3 0x5D#8 .eor Safety.abx 4 true .eorAbx (fun v r => { r with a := r.a ^^^ v, p := withZN r.p (r.a ^^^ v) }) ∧
  ReadForm3 0x59#8 .eor Safety.aby 4 true .eorAby (fun v r => { r with a := r.a ^^^ v, p := withZN r.p (r.a ^^^ v) }) ∧
  ReadForm2 0x41#8 .eor Safety.izx 6 false .eorIzx (fun v r => { r with a := r.a ^^^ v, p := withZN r.p (r.a ^^^ v) }) ∧
  ReadForm2 0x51#8 .eor Safety.izy 5 true .eorIzy (fun v r => { r with a := r.a ^^^ v, p := withZN r.p (r.a ^^^ v) })

/-- For every state and operand, each form of CMP, CPX and CPY reads its operand once and completes with C set
exactly when the register is at least the operand as unsigned numbers, Z and N from the 8-bit difference, V,
the register and everything else unchanged. A form whose operand read stops stops with the same fault. Nothing
else changes but what that read changes (frame), and the scratch of the tick. For every form the opcode byte,
mode, base cycles and page penalty are the ones the rule lists. Rests on: R165, R166, R167. -/
def Obligations.ComparesEveryForm : Prop :=
  ImmForm 0xC9#8 .cmp .cmpImm (fun v r => { r with p := compareResult r.p r.a v }) ∧
  ReadForm2 0xC5#8 .cmp Safety.zp 3 false .cmpZp (fun v r => { r with p := compareResult r.p r.a v }) ∧
  ReadForm2 0xD5#8 .cmp Safety.zpx 4 false .cmpZpx (fun v r => { r with p := compareResult r.p r.a v }) ∧
  ReadForm3 0xCD#8 .cmp Safety.abs 4 false .cmpAbs (fun v r => { r with p := compareResult r.p r.a v }) ∧
  ReadForm3 0xDD#8 .cmp Safety.abx 4 true .cmpAbx (fun v r => { r with p := compareResult r.p r.a v }) ∧
  ReadForm3 0xD9#8 .cmp Safety.aby 4 true .cmpAby (fun v r => { r with p := compareResult r.p r.a v }) ∧
  ReadForm2 0xC1#8 .cmp Safety.izx 6 false .cmpIzx (fun v r => { r with p := compareResult r.p r.a v }) ∧
  ReadForm2 0xD1#8 .cmp Safety.izy 5 true .cmpIzy (fun v r => { r with p := compareResult r.p r.a v }) ∧
  ImmForm 0xE0#8 .cpx .cpxImm (fun v r => { r with p := compareResult r.p r.x v }) ∧
  ReadForm2 0xE4#8 .cpx Safety.zp 3 false .cpxZp (fun v r => { r with p := compareResult r.p r.x v }) ∧
  ReadForm3 0xEC#8 .cpx Safety.abs 4 false .cpxAbs (fun v r => { r with p := compareResult r.p r.x v }) ∧
  ImmForm 0xC0#8 .cpy .cpyImm (fun v r => { r with p := compareResult r.p r.y v }) ∧
  ReadForm2 0xC4#8 .cpy Safety.zp 3 false .cpyZp (fun v r => { r with p := compareResult r.p r.y v }) ∧
  ReadForm3 0xCC#8 .cpy Safety.abs 4 false .cpyAbs (fun v r => { r with p := compareResult r.p r.y v })

/-- For every state and operand, both forms of BIT read the operand once and complete with Z set exactly when A
and the operand have no common bit, N its bit 7, V its bit 6, everything else unchanged. A form whose operand
read stops stops with the same fault. Nothing else changes but what that read changes (frame), and the scratch
of the tick. For every form the opcode byte, mode, base cycles and page penalty are the ones the rule lists.
Rests on: R168. -/
def Obligations.BitEveryForm : Prop :=
  ReadForm2 0x24#8 .bit Safety.zp 3 false .bitZp (fun v r => { r with p := { r.p with
      z := decide ((r.a &&& v).toNat = 0), n := decide (0x80 ≤ v.toNat), v := v.getLsbD 6 } }) ∧
  ReadForm3 0x2C#8 .bit Safety.abs 4 false .bitAbs (fun v r => { r with p := { r.p with
      z := decide ((r.a &&& v).toNat = 0), n := decide (0x80 ≤ v.toNat), v := v.getLsbD 6 } })

/-! Shifts, increments. -/

/-- From every state the accumulator forms complete with A doubled, halved, or rotated through the carry, C the
bit shifted out, Z and N from the result, V and everything else unchanged. For every form the opcode byte,
mode, base cycles and page penalty are the ones the rule lists. Rests on: 42_shift_incdec.md R180,
42_shift_incdec.md R181, 42_shift_incdec.md R182, 42_shift_incdec.md R183, 30_encoding.md R111. -/
def Obligations.AccumulatorShiftsAndRotates : Prop :=
  PlainForm 0x0A#8 .asl .acc 2 .aslAcc (fun s => { s with a := aslResult s.a s.p, p := withZN { s.p with c := decide (0x80 ≤ s.a.toNat) } (aslResult s.a s.p) }) ∧
  PlainForm 0x4A#8 .lsr .acc 2 .lsrAcc (fun s => { s with a := lsrResult s.a s.p, p := withZN { s.p with c := decide (s.a.toNat % 2 = 1) } (lsrResult s.a s.p) }) ∧
  PlainForm 0x2A#8 .rol .acc 2 .rolAcc (fun s => { s with a := rolResult s.a s.p, p := withZN { s.p with c := decide (0x80 ≤ s.a.toNat) } (rolResult s.a s.p) }) ∧
  PlainForm 0x6A#8 .ror .acc 2 .rorAcc (fun s => { s with a := rorResult s.a s.p, p := withZN { s.p with c := decide (s.a.toNat % 2 = 1) } (rorResult s.a s.p) })

/-- For every state and operand, each memory form reads its operand once, writes the shifted or rotated byte once
at the same address, and completes with C the bit shifted out, Z and N from the result; it stops exactly where
the read or the write stops (the write to the status register after its read). In ROM the write is ignored and
the flags are set. That there is no further access is the spec's decision D9. For every form the opcode byte,
mode, base cycles and page penalty are the ones the rule lists. Rests on: 42_shift_incdec.md R190,
42_shift_incdec.md R180, 42_shift_incdec.md R181, 42_shift_incdec.md R182, 42_shift_incdec.md R183. -/
def Obligations.MemoryShiftsAndRotatesEveryForm : Prop :=
  ModifyForm2 0x06#8 .asl Safety.zp 5 .aslZp aslResult aslFlags ∧
  ModifyForm2 0x16#8 .asl Safety.zpx 6 .aslZpx aslResult aslFlags ∧
  ModifyForm3 0x0E#8 .asl Safety.abs 6 .aslAbs aslResult aslFlags ∧
  ModifyForm3 0x1E#8 .asl Safety.abx 7 .aslAbx aslResult aslFlags ∧
  ModifyForm2 0x46#8 .lsr Safety.zp 5 .lsrZp lsrResult lsrFlags ∧
  ModifyForm2 0x56#8 .lsr Safety.zpx 6 .lsrZpx lsrResult lsrFlags ∧
  ModifyForm3 0x4E#8 .lsr Safety.abs 6 .lsrAbs lsrResult lsrFlags ∧
  ModifyForm3 0x5E#8 .lsr Safety.abx 7 .lsrAbx lsrResult lsrFlags ∧
  ModifyForm2 0x26#8 .rol Safety.zp 5 .rolZp rolResult rolFlags ∧
  ModifyForm2 0x36#8 .rol Safety.zpx 6 .rolZpx rolResult rolFlags ∧
  ModifyForm3 0x2E#8 .rol Safety.abs 6 .rolAbs rolResult rolFlags ∧
  ModifyForm3 0x3E#8 .rol Safety.abx 7 .rolAbx rolResult rolFlags ∧
  ModifyForm2 0x66#8 .ror Safety.zp 5 .rorZp rorResult rorFlags ∧
  ModifyForm2 0x76#8 .ror Safety.zpx 6 .rorZpx rorResult rorFlags ∧
  ModifyForm3 0x6E#8 .ror Safety.abs 6 .rorAbs rorResult rorFlags ∧
  ModifyForm3 0x7E#8 .ror Safety.abx 7 .rorAbx rorResult rorFlags

/-- For every state and operand, each form of INC and DEC reads its operand once, writes the byte plus or minus
one modulo 256 once at the same address, and completes with Z and N from the result, C, V and everything else
unchanged. That there is no further access is the spec's decision D9. For every form the opcode byte, mode,
base cycles and page penalty are the ones the rule lists. Rests on: 42_shift_incdec.md R184,
42_shift_incdec.md R185, 42_shift_incdec.md R190. -/
def Obligations.MemoryIncrementsEveryForm : Prop :=
  ModifyForm2 0xE6#8 .inc Safety.zp 5 .incZp incResult (fun v p => withZN p (incResult v p)) ∧
  ModifyForm2 0xF6#8 .inc Safety.zpx 6 .incZpx incResult (fun v p => withZN p (incResult v p)) ∧
  ModifyForm3 0xEE#8 .inc Safety.abs 6 .incAbs incResult (fun v p => withZN p (incResult v p)) ∧
  ModifyForm3 0xFE#8 .inc Safety.abx 7 .incAbx incResult (fun v p => withZN p (incResult v p)) ∧
  ModifyForm2 0xC6#8 .dec Safety.zp 5 .decZp decResult (fun v p => withZN p (decResult v p)) ∧
  ModifyForm2 0xD6#8 .dec Safety.zpx 6 .decZpx decResult (fun v p => withZN p (decResult v p)) ∧
  ModifyForm3 0xCE#8 .dec Safety.abs 6 .decAbs decResult (fun v p => withZN p (decResult v p)) ∧
  ModifyForm3 0xDE#8 .dec Safety.abx 7 .decAbx decResult (fun v p => withZN p (decResult v p))

/-- From every state the four instructions complete with the index register plus or minus one modulo 256, Z and N
from it, C, V and everything else unchanged. For every form the opcode byte, mode, base cycles and page
penalty are the ones the rule lists. Rests on: R186, R187, R188, R189. -/
def Obligations.IndexIncrementsAndDecrements : Prop :=
  PlainForm 0xE8#8 .inx .imp 2 .inx (fun s => { s with x := incResult s.x s.p, p := withZN s.p (incResult s.x s.p) }) ∧
  PlainForm 0xC8#8 .iny .imp 2 .iny (fun s => { s with y := incResult s.y s.p, p := withZN s.p (incResult s.y s.p) }) ∧
  PlainForm 0xCA#8 .dex .imp 2 .dex (fun s => { s with x := decResult s.x s.p, p := withZN s.p (decResult s.x s.p) }) ∧
  PlainForm 0x88#8 .dey .imp 2 .dey (fun s => { s with y := decResult s.y s.p, p := withZN s.p (decResult s.y s.p) })

/-! Branches, jumps, calls. -/

/-- From every state and displacement each branch completes: taken exactly under its condition, PC becomes the
next instruction's address plus the signed displacement modulo 65536 and the tick gets one extra cycle, two
when the target lies on another page than the next instruction; not taken, PC stays. No flag, register or byte
changes; EA is the target either way. The page compared is the spec's decision D28. The opcode bytes and base
count 2 are the listed ones. Rests on: 43_branch_jump.md R200, 43_branch_jump.md R201 to R208, 30_encoding.md
R121. -/
def Obligations.BranchesEveryCondition : Prop :=
  BranchForm 0x90#8 .bcc .bcc (fun s => !s.p.c) ∧
  BranchForm 0xB0#8 .bcs .bcs (fun s => s.p.c) ∧
  BranchForm 0xF0#8 .beq .beq (fun s => s.p.z) ∧
  BranchForm 0xD0#8 .bne .bne (fun s => !s.p.z) ∧
  BranchForm 0x30#8 .bmi .bmi (fun s => s.p.n) ∧
  BranchForm 0x10#8 .bpl .bpl (fun s => !s.p.n) ∧
  BranchForm 0x50#8 .bvc .bvc (fun s => !s.p.v) ∧
  BranchForm 0x70#8 .bvs .bvs (fun s => s.p.v)

/-- From every state JMP absolute completes with PC the operand word and nothing else changed. JMP indirect reads
the pointer's low byte at the pointer and its high byte at the next address of the same page (0xFF wraps to
0x00), in that order, and completes with PC that word; it stops exactly where one of the two reads stops. No
flag, register or byte changes but for the reads' own effects. Rests on: R209, R118. -/
def Obligations.JmpAbsoluteAndIndirect : Prop :=
  Encodes3 0x4C#8 .jmp .abs 3 false .jmpAbs ∧ Encodes3 0x6C#8 .jmp .ind 5 false .jmpInd ∧
  (∀ (s : State) (w : Addr),
    exec (.jmpAbs w) s = .next { s with pc := w, scratch := { s.scratch with ea := w } }) ∧
  (∀ (s : State) (lo hi : Byte), readable s (hi ++ lo) = true →
    ∃ b r, busRead (hi ++ lo) s = .next (b, r) ∧
      (readable r (hi ++ (lo + 1#8)) = true → ∃ d t, busRead (hi ++ (lo + 1#8)) r = .next (d, t) ∧
        exec (.jmpInd (hi ++ lo)) s = .next { t with pc := d ++ b, scratch := { s.scratch with ea := d ++ b } }) ∧
      (readable r (hi ++ (lo + 1#8)) = false → ∃ f, exec (.jmpInd (hi ++ lo)) s = .fault f)) ∧
  (∀ (s : State) (p : Addr), readable s p = false → ∃ f, busRead p s = .fault f ∧ exec (.jmpInd p) s = .fault f)

/-- From every state JSR completes: the byte at 0x0100 + SP becomes the high byte and the byte at 0x0100 + (SP -
1) the low byte of the address before the next instruction, SP decreases by 2 modulo 256, PC is the operand
word; no flag, register or other byte changes. Rests on: R210. -/
def Obligations.JsrPushesTheAddressOfItsLastByte : Prop :=
  Encodes3 0x20#8 .jsr .abs 6 false .jsr ∧
  ∀ (s : State) (w : Addr), exec (.jsr w) s = .next { s with
    pc := w, sp := s.sp - 2#8, scratch := { s.scratch with ea := w }
    ram := memWrite (memWrite s.ram (stackIndex s.sp) (BitVec.ofNat 8 ((s.pc - 1#16).toNat / 0x100)))
      (stackIndex (s.sp - 1#8)) (BitVec.ofNat 8 ((s.pc - 1#16).toNat % 0x100)) }

/-- From every state RTS completes with PC one more than the word whose low byte is at 0x0100 + (SP + 1) and whose
high byte is at 0x0100 + (SP + 2), SP increased by 2 modulo 256, and nothing else changed. Rests on: R211. -/
def Obligations.RtsReturnsPastThePulledAddress : Prop :=
  PlainForm 0x60#8 .rts .imp 6 .rts (fun s => { s with
    sp := s.sp + 2#8
    pc := (memRead s.ram (stackIndex (s.sp + 2#8)) ++ memRead s.ram (stackIndex (s.sp + 1#8))) + 1#16 })

/-- From every state and target: JSR completes, and RTS executed in any state that still has its SP and its work
RAM completes with PC the address of the instruction after the JSR and SP as it was before. Rests on:
43_branch_jump.md R210, 43_branch_jump.md R211, 43_branch_jump.md R212. -/
def Obligations.CallThenReturnComesBack : Prop :=
  ∀ (s : State) (w : Addr), ∃ t, exec (.jsr w) s = .next t ∧
    ∀ r : State, r.sp = t.sp → r.ram = t.ram → exec .rts r = .next { r with pc := s.pc, sp := s.sp }

/-! Stack, flags, system. -/

/-- From every state PHA (PHP) completes with the byte at 0x0100 + SP equal to A (to the status byte with bits 5
and 4 set) and SP one less; PLA (PLP) completes with SP one more and A (the six flags) taken from the byte at
0x0100 + (SP + 1), PLA setting Z and N, PLP setting P.U and clearing P.B (the spec's decision D6); nothing
else changes. Rests on: 44_stack_flags_system.md R220, 44_stack_flags_system.md R221, 44_stack_flags_system.md
R222, 44_stack_flags_system.md R223. -/
def Obligations.PushesAndPullsOfAccumulatorAndStatus : Prop :=
  PlainForm 0x48#8 .pha .imp 3 .pha (fun s => { s with sp := s.sp - 1#8, ram := memWrite s.ram (stackIndex s.sp) s.a }) ∧
  PlainForm 0x08#8 .php .imp 3 .php (fun s => { s with
    sp := s.sp - 1#8, ram := memWrite s.ram (stackIndex s.sp) (statusByte true s.p) }) ∧
  PlainForm 0x68#8 .pla .imp 4 .pla (fun s => { s with
    sp := s.sp + 1#8, a := memRead s.ram (stackIndex (s.sp + 1#8))
    p := withZN s.p (memRead s.ram (stackIndex (s.sp + 1#8))) }) ∧
  PlainForm 0x28#8 .plp .imp 4 .plp (fun s => { s with
    sp := s.sp + 1#8, p := statusOf (memRead s.ram (stackIndex (s.sp + 1#8))) })

/-- From every state PHP completes, and PLP executed in any state that still has its SP and its work RAM completes
with the flags N, V, D, I, Z, C and SP as they were before PHP, P.U = 1 and P.B = 0; the byte on the stack has
bits 5 and 4 set. Rests on: 44_stack_flags_system.md R223, 10_state.md R33, 10_state.md R34. -/
def Obligations.StatusRoundTripsThroughTheStack : Prop :=
  ∀ s : State, ∃ t, exec .php s = .next t ∧ memRead t.ram (stackIndex s.sp) &&& 0x30#8 = 0x30#8 ∧
    ∀ r : State, r.sp = t.sp → r.ram = t.ram →
      exec .plp r = .next { r with sp := s.sp, p := { s.p with u := true, b := false } }

/-- From every state each of the seven flag instructions completes with its flag set or cleared and nothing else
changed, and NOP completes with nothing changed. For every form the opcode byte, mode, base cycles and page
penalty are the ones the rule lists. Rests on: R224, R225, R226, R227, R228, R229, R230, R231. -/
def Obligations.FlagInstructionsWriteOneFlag : Prop :=
  PlainForm 0x18#8 .clc .imp 2 .clc (fun s => { s with p := { s.p with c := false } }) ∧
  PlainForm 0x38#8 .sec .imp 2 .sec (fun s => { s with p := { s.p with c := true } }) ∧
  PlainForm 0x58#8 .cli .imp 2 .cli (fun s => { s with p := { s.p with i := false } }) ∧
  PlainForm 0x78#8 .sei .imp 2 .sei (fun s => { s with p := { s.p with i := true } }) ∧
  PlainForm 0xB8#8 .clv .imp 2 .clv (fun s => { s with p := { s.p with v := false } }) ∧
  PlainForm 0xD8#8 .cld .imp 2 .cld (fun s => { s with p := { s.p with d := false } }) ∧
  PlainForm 0xF8#8 .sed .imp 2 .sed (fun s => { s with p := { s.p with d := true } }) ∧
  PlainForm 0xEA#8 .nop .imp 2 .nop (fun s => s)

/-- From every state with a cartridge, whatever I is, BRK completes: the three stack bytes are the high and low
byte of the address after its padding byte and the status byte with bits 5 and 4 set, SP decreases by 3 modulo
256, I is set, D and every other flag and register are unchanged, PC is the little-endian word at 0xFFFE; no
other byte changes. Without a cartridge it stops with MissingCartridge at the vector, which is R91 (the spec's
decision D13). Rests on: 44_stack_flags_system.md R232, 20_memory.md R91. -/
def Obligations.BrkEntersThroughTheIrqVector : Prop :=
  Encodes1 0x00#8 .brk .imp 7 .brk ∧
  (∀ (s : State) (c : Cartridge), s.cart = some c → exec .brk s = .next { s with
    pc := vectorWord c 2, sp := s.sp - 3#8, p := { s.p with i := true }
    ram := interruptFrame s.ram s.sp (s.pc + 1#16) (statusByte true s.p) }) ∧
  (∀ s : State, s.cart = none → exec .brk s = .fault (.missingCartridge 0xFFFE))

/-- From every state RTI completes with the six flags from the byte at 0x0100 + (SP + 1), P.U = 1, P.B = 0 (the
normal form is the spec's decision D6), PC the word at the two bytes above, SP increased by 3 modulo 256, and
nothing else changed. Rests on: 44_stack_flags_system.md R233, 60_exceptions.md R313. -/
def Obligations.RtiRestoresFlagsAndPc : Prop :=
  PlainForm 0x40#8 .rti .imp 6 .rti (fun s => { s with
    sp := s.sp + 3#8, p := statusOf (memRead s.ram (stackIndex (s.sp + 1#8)))
    pc := memRead s.ram (stackIndex (s.sp + 3#8)) ++ memRead s.ram (stackIndex (s.sp + 2#8)) })

/-! Interrupts and reset. -/

/-- With no fault recorded: when I is set Irq leaves the state as it was; when I is clear and a cartridge is
inserted it completes with PC and the status byte (bit 5 set, bit 4 clear) pushed, I set, PC the word at
0xFFFE, SP decreased by 3, INT_CYCLES added to cyc (the spec's decision D7), nothing else changed; when I is
clear and no cartridge is inserted it stops with MissingCartridge at the vector, which is R91 (the spec's
decision D13). Rests on: 60_exceptions.md R305, 60_exceptions.md R307, 60_exceptions.md R310, 20_memory.md
R91. -/
def Obligations.IrqEntersUnlessMasked : Prop :=
  (∀ s : State, s.p.i = true → irq s = .next s) ∧
  (∀ (s : State) (c : Cartridge), s.fault = none → s.p.i = false → s.cart = some c → irq s = .next { s with
    pc := vectorWord c 2, sp := s.sp - 3#8, p := { s.p with i := true }, cyc := s.cyc + s.config.intCycles
    ram := interruptFrame s.ram s.sp s.pc (statusByte false s.p) }) ∧
  (∀ s : State, s.fault = none → s.p.i = false → s.cart = none → irq s = .fault (.missingCartridge 0xFFFE))

/-- With no fault recorded and a cartridge inserted Nmi completes, whatever I is, with PC and the status byte (bit
5 set, bit 4 clear) pushed, I set, PC the word at 0xFFFA, SP decreased by 3, INT_CYCLES added to cyc (the
spec's decision D7), nothing else changed; with no cartridge inserted it stops with MissingCartridge at the
vector, which is R91 (the spec's decision D13). Rests on: 60_exceptions.md R306, 60_exceptions.md R307,
20_memory.md R91. -/
def Obligations.NmiIsNeverMasked : Prop :=
  (∀ (s : State) (c : Cartridge), s.fault = none → s.cart = some c → nmi s = .next { s with
    pc := vectorWord c 6, sp := s.sp - 3#8, p := { s.p with i := true }, cyc := s.cyc + s.config.intCycles
    ram := interruptFrame s.ram s.sp s.pc (statusByte false s.p) }) ∧
  (∀ s : State, s.fault = none → s.cart = none → nmi s = .fault (.missingCartridge 0xFFFA))

/-- From every state with no fault recorded and a cartridge, Nmi completes, and RTI executed in any state that
still has its SP and its work RAM completes with PC, SP and the six flags as they were before the interrupt (I
among them), P.U = 1 and P.B = 0. Rests on: 60_exceptions.md R313, 44_stack_flags_system.md R233,
60_exceptions.md R306. -/
def Obligations.RtiUndoesAnInterruptEntry : Prop :=
  ∀ (s : State) (c : Cartridge), s.fault = none → s.cart = some c → ∃ t, nmi s = .next t ∧
    ∀ r : State, r.sp = t.sp → r.ram = t.ram →
      exec .rti r = .next { r with pc := s.pc, sp := s.sp, p := { s.p with u := true, b := false } }

/-- With no fault recorded and a cartridge inserted, Reset completes with I set, PC the little-endian word at
0xFFFC, cyc = 7, and nothing else changed (that the list is exhaustive is the spec's decision D4); without a
cartridge it stops with MissingCartridge at the vector, which is R91 (the spec's decision D13). Rests on:
70_reset_and_hazards.md R342, 70_reset_and_hazards.md R343, 70_reset_and_hazards.md R345, 20_memory.md R91. -/
def Obligations.ResetSignalLoadsPcSetsIAndCycles : Prop :=
  (∀ (s : State) (c : Cartridge), s.fault = none → s.cart = some c → resetSignal s = .next { s with
    pc := vectorWord c 4, p := { s.p with i := true }, cyc := 7 }) ∧
  (∀ s : State, s.fault = none → s.cart = none → resetSignal s = .fault (.missingCartridge 0xFFFC))

/-- For every choice of the OPEN launch parameters the launch completes: PC is the reset vector word of the
cartridge, A, X, Y, SP, the five other flags and the memories are the parameters, I = 1, U = 1, B = 0, cyc =
7, no fault, the VTU at scanline 0, cycle 0 with all registers 0 (the spec's decisions D2, D18). State.reset
is the launch on the recommended defaults with the blank cartridge (log entries 1 to 6). Rests on: 10_state.md
R49, 70_reset_and_hazards.md R346, 70_reset_and_hazards.md R341. -/
def Obligations.LaunchStateHoldsTheParameters : Prop :=
  (∀ l : Launch, ∃ t, launch l = .next t ∧ t.pc = vectorWord l.cart 4 ∧ t.a = l.a0 ∧ t.x = l.x0 ∧ t.y = l.y0 ∧
    t.sp = l.sp0 ∧ t.p = { l.p0 with i := true, u := true, b := false } ∧ t.cyc = 7 ∧ t.fault = none ∧
    t.ram = l.ram ∧ t.xram = l.xram ∧ t.vtu.nt = l.nt ∧ t.vtu.pal = l.pal ∧ t.vtu.oam = l.oam ∧
    t.vtu.scanline = 0 ∧ t.vtu.cycle = 0 ∧ t.vtu.ctrl = 0#8 ∧ t.vtu.mask = 0#8 ∧ t.vtu.status = 0#8 ∧
    t.vtu.oamAddr = 0#8 ∧ t.vtu.w = false ∧ t.vtu.rbuf = 0#8 ∧ t.vtu.v = 0#15 ∧ t.vtu.t = 0#15 ∧
    t.cart = some l.cart ∧ t.config = l.config) ∧
  launch (recommendedLaunch blankCartridge) = .next State.reset

/-! The video timing unit. -/

/-- At every mirror of 0x2002 a read completes with the value whose bits 7 to 5 are those of the status register
and bits 4 to 0 those of the read buffer; afterwards VBlank and the toggle are clear, the other status bits
and everything else unchanged. Rests on: R260. -/
def Obligations.StatusReadClearsVblankAndToggle : Prop :=
  ∀ (s : State) (a : Addr), 0x2000 ≤ a.toNat → a.toNat < 0x4000 → a.toNat % 8 = 2 →
    busRead a s = .next (BitVec.ofNat 8 (s.vtu.status.toNat / 32 * 32 + s.vtu.rbuf.toNat % 32),
      { s with vtu := { s.vtu with status := s.vtu.status &&& 0x7F#8, w := false } })

/-- A bus write of a value at a mirror of: register 0 stores ctrl and copies bits 1 and 0 into t[11:10]; register
1 stores mask; register 3 stores oam_addr; register 4 stores the byte in OAM at oam_addr and increments
oam_addr modulo 256. Each completes and changes nothing else. Registers 1, 3 and 4 are the spec's decision
D17. Rests on: 49_video_timing_unit.md R257, 49_video_timing_unit.md R258, 49_video_timing_unit.md R259,
49_video_timing_unit.md R262, 49_video_timing_unit.md R263. -/
def Obligations.StoringPortsStoreTheirRegister : Prop :=
  ∀ (s : State) (a : Addr) (v : Byte), 0x2000 ≤ a.toNat → a.toNat < 0x4000 →
    (a.toNat % 8 = 0 → ∃ t', busWrite a v s = .next { s with vtu := { s.vtu with ctrl := v, t := t' } } ∧
      ∀ k, t'.getLsbD k = if k = 10 then v.getLsbD 0 else if k = 11 then v.getLsbD 1 else s.vtu.t.getLsbD k) ∧
    (a.toNat % 8 = 1 → busWrite a v s = .next { s with vtu := { s.vtu with mask := v } }) ∧
    (a.toNat % 8 = 3 → busWrite a v s = .next { s with vtu := { s.vtu with oamAddr := v } }) ∧
    (a.toNat % 8 = 4 → busWrite a v s = .next { s with vtu := { s.vtu with
      oam := memWrite s.vtu.oam s.vtu.oamAddr.toNat v, oamAddr := s.vtu.oamAddr + 1#8 } })

/-- A bus write at a mirror of register 5 with the toggle clear puts value[7:3] into t[4:0] and sets the toggle,
with it set puts value[7:3] into t[9:5], value[2:0] into t[14:12] and clears it; at a mirror of register 6
with the toggle clear it puts value[5:0] into t[13:8], clears t[14] and sets the toggle, with it set it puts
the value into t[7:0], copies t to v and clears it. Each completes and changes nothing else. The discarded
bits are the spec's decisions D17 and D26. Rests on: 49_video_timing_unit.md R264, 49_video_timing_unit.md
R267, 49_video_timing_unit.md R269. -/
def Obligations.TwoStepPortsShareOneToggle : Prop :=
  ∀ (s : State) (a : Addr) (v : Byte), 0x2000 ≤ a.toNat → a.toNat < 0x4000 →
    (a.toNat % 8 = 5 → s.vtu.w = false → ∃ t', busWrite a v s = .next { s with vtu := { s.vtu with t := t', w := true } } ∧
      ∀ k, t'.getLsbD k = if k < 5 then v.getLsbD (k + 3) else s.vtu.t.getLsbD k) ∧
    (a.toNat % 8 = 5 → s.vtu.w = true → ∃ t', busWrite a v s = .next { s with vtu := { s.vtu with t := t', w := false } } ∧
      ∀ k, t'.getLsbD k = if 5 ≤ k ∧ k < 10 then v.getLsbD (k - 2)
        else if 12 ≤ k ∧ k < 15 then v.getLsbD (k - 12) else s.vtu.t.getLsbD k) ∧
    (a.toNat % 8 = 6 → s.vtu.w = false → ∃ t', busWrite a v s = .next { s with vtu := { s.vtu with t := t', w := true } } ∧
      ∀ k, t'.getLsbD k = if k < 8 then s.vtu.t.getLsbD k else if k < 14 then v.getLsbD (k - 8) else false) ∧
    (a.toNat % 8 = 6 → s.vtu.w = true →
      ∃ t', busWrite a v s = .next { s with vtu := { s.vtu with t := t', v := t', w := false } } ∧
        ∀ k, t'.getLsbD k = if k < 8 then v.getLsbD k else s.vtu.t.getLsbD k)

/-- At every mirror of 0x2007, when v[13:0] is in nametable or palette space with any cartridge, or below 0x2000
inside its graphics banks, a read completes: the buffer receives the VRAM byte at v[13:0] (graphics ROM,
folded nametable, folded palette), the value is that byte in palette space and the old buffer elsewhere, v
advances by 32 or 1 modulo 0x8000 by ctrl[2], nothing else changes. In palette space the same holds with no
cartridge; a read below 0x2000 beyond the graphics banks faults ChrOutOfRange (the spec's decision D14). The
nametable byte is the one of the fold in the configuration (R272, the spec's decision D15; the two folds are
log entry 5). That a palette read reloads the buffer is the spec's decision D16, the wrap D25. Rests on:
49_video_timing_unit.md R265, 49_video_timing_unit.md R270, 49_video_timing_unit.md R272,
49_video_timing_unit.md R273, 49_video_timing_unit.md R274, 20_memory.md R86. -/
def Obligations.DataPortReadsAreDelayedExceptInPaletteSpace : Prop :=
  ∀ (s : State) (a : Addr), 0x2000 ≤ a.toNat → a.toNat < 0x4000 → a.toNat % 8 = 7 →
    let n := portVramAddr s
    let answers := fun (byte value : Byte) => busRead a s = .next (value, { s with vtu := { s.vtu with
      rbuf := byte, v := BitVec.ofNat 15 (s.vtu.v.toNat + if s.vtu.ctrl.getLsbD 2 = true then 32 else 1) } })
    (∀ c : Cartridge, s.cart = some c → (0x2000 ≤ n ∨ n < 0x2000 * c.chrBanks) →
      let byte := if n < 0x2000 then memRead c.chr n
        else if n < 0x3F00 then memRead s.vtu.nt (nametableByte s.config.ntFold c.mirroring n)
        else memRead s.vtu.pal (paletteByte n)
      answers byte (if 0x3F00 ≤ n then byte else s.vtu.rbuf)) ∧
    (0x3F00 ≤ n → answers (memRead s.vtu.pal (paletteByte n)) (memRead s.vtu.pal (paletteByte n))) ∧
    (∀ c : Cartridge, s.cart = some c → n < 0x2000 → 0x2000 * c.chrBanks ≤ n →
      busRead a s = .fault (.chrOutOfRange (BitVec.ofNat 14 n)))

/-- At every mirror of 0x2007 with a cartridge a write completes: below 0x2000 nothing is stored (the spec's
decision D14), in nametable space the folded byte, in palette space the folded byte; v advances by 32 or 1
modulo 0x8000 by ctrl[2]; the buffer and everything else are unchanged. The nametable byte is the one of the
fold in the configuration (R272, the spec's decision D15; the two folds are log entry 5), the palette byte
that of R273; the wrap is the spec's decision D25. Rests on: 49_video_timing_unit.md R266,
49_video_timing_unit.md R271, 49_video_timing_unit.md R272, 49_video_timing_unit.md R273,
49_video_timing_unit.md R274. -/
def Obligations.DataPortWritesStoreAndAdvance : Prop :=
  ∀ (s : State) (a : Addr) (c : Cartridge) (x : Byte), 0x2000 ≤ a.toNat → a.toNat < 0x4000 → a.toNat % 8 = 7 →
    s.cart = some c →
    let n := portVramAddr s
    busWrite a x s = .next { s with vtu := { s.vtu with
      nt := if 0x2000 ≤ n ∧ n < 0x3F00 then memWrite s.vtu.nt (nametableByte s.config.ntFold c.mirroring n) x else s.vtu.nt
      pal := if 0x3F00 ≤ n then memWrite s.vtu.pal (paletteByte n) x else s.vtu.pal
      v := BitVec.ofNat 15 (s.vtu.v.toNat + if s.vtu.ctrl.getLsbD 2 = true then 32 else 1) } }

/-- For every VRAM address the model's nametable index is below 0x0800 and is half * 0x400 + the low ten bits,
where under the fold of R272 (the spec's decision D15, log entry 5) the half is bit 11 for Horizontal and bit
10 for Vertical, and under the opposite fold the other way round; its palette index is the address modulo 32,
less 16 at 0x10, 0x14, 0x18, 0x1C, so never one of these. Rests on: 49_video_timing_unit.md R272,
49_video_timing_unit.md R273. -/
def Obligations.NametableAndPaletteFolds : Prop :=
  ∀ (a : VAddr),
    (∀ fold mirroring, ntIndex fold mirroring a = nametableByte fold mirroring a.toNat ∧
      nametableByte fold mirroring a.toNat < 0x800) ∧
    (nametableByte .rowPairs .horizontal a.toNat = a.toNat / 0x800 % 2 * 0x400 + a.toNat % 0x400) ∧
    (nametableByte .rowPairs .vertical a.toNat = a.toNat / 0x400 % 2 * 0x400 + a.toNat % 0x400) ∧
    (nametableByte .squarePairs .horizontal a.toNat = nametableByte .rowPairs .vertical a.toNat) ∧
    (nametableByte .squarePairs .vertical a.toNat = nametableByte .rowPairs .horizontal a.toNat) ∧
    palIndex a = paletteByte a.toNat ∧ paletteByte a.toNat < 0x20 ∧
    ¬ (16 ≤ paletteByte a.toNat ∧ paletteByte a.toNat % 4 = 0)

/-- From every state with no fault recorded and the counters in range: a tick that stays on the line only
increments cycle; one that ends the line sets cycle to 0 and advances scanline; entering 241 sets VBlank and,
when ctrl[7] is 1, runs the Nmi entry inside the tick; ending line 261 wraps to scanline 0 and clears VBlank;
nothing else changes. The numbers 241 and 262 are the spec's decision D2. Rests on: 49_video_timing_unit.md
R253, 49_video_timing_unit.md R252, 49_video_timing_unit.md R276. -/
def Obligations.ClockTickCountsAndRaisesNmi : Prop :=
  ∀ s : State, s.fault = none → s.vtu.cycle ≤ 340 → s.vtu.scanline ≤ 261 →
    (s.vtu.cycle < 340 → tickClock s = .next { s with vtu := { s.vtu with cycle := s.vtu.cycle + 1 } }) ∧
    (s.vtu.cycle = 340 → s.vtu.scanline ≠ 240 → s.vtu.scanline ≠ 261 →
      tickClock s = .next { s with vtu := { s.vtu with cycle := 0, scanline := s.vtu.scanline + 1 } }) ∧
    (s.vtu.cycle = 340 → s.vtu.scanline = 240 → s.vtu.ctrl.getLsbD 7 = false →
      tickClock s = .next { s with vtu := { s.vtu with
        cycle := 0, scanline := 241, status := s.vtu.status ||| 0x80#8 } }) ∧
    (s.vtu.cycle = 340 → s.vtu.scanline = 240 → s.vtu.ctrl.getLsbD 7 = true →
      tickClock s = nmi { s with vtu := { s.vtu with
        cycle := 0, scanline := 241, status := s.vtu.status ||| 0x80#8 } }) ∧
    (s.vtu.cycle = 340 → s.vtu.scanline = 261 →
      tickClock s = .next { s with vtu := { s.vtu with cycle := 0, scanline := 0, status := s.vtu.status &&& 0x7F#8 } })

/-- From every state with no fault recorded at scanline 0, cycle 0, after k < 89342 VTU ticks the counters are k /
341 and k mod 341, VBlank is set from tick 82181 on, and the processor has taken exactly one Nmi entry from
tick 82181 on when ctrl[7] is 1, none before and none when it is 0; after 89342 ticks the counters are (0, 0)
again and VBlank is clear. The line numbers are the spec's decision D2, the sampling D19. Rests on:
49_video_timing_unit.md R254, 49_video_timing_unit.md R253, 70_reset_and_hazards.md R360. -/
def Obligations.FrameTimingAndOneNmiPerFrame : Prop :=
  ∀ (s : State) (k : Nat), s.fault = none → s.vtu.scanline = 0 → s.vtu.cycle = 0 →
    (k < 89342 →
      clockTicks k s = Res.map
        (if 82181 ≤ k ∧ s.vtu.ctrl.getLsbD 7 = true then nmi s else .next s)
        (fun t => { t with vtu := { s.vtu with
          scanline := k / 341, cycle := k % 341
          status := if 82181 ≤ k then s.vtu.status ||| 0x80#8 else s.vtu.status } })) ∧
    clockTicks 89342 s = Res.map
      (if s.vtu.ctrl.getLsbD 7 = true then nmi s else .next s)
      (fun t => { t with vtu := { s.vtu with scanline := 0, cycle := 0, status := s.vtu.status &&& 0x7F#8 } })

/-! The loader. -/

/-- An image without the signature, or legacy with a non-zero byte among bytes 12 to 15, is rejected
InvalidHeader; one with the signature and fewer than 16 bytes, or with a good header and fewer bytes than the
header claims, is rejected Truncated; a full one that names no program bank or more than two is refused. Every
full image with a good header, legacy or extended, with or without a trainer, that names one or two program
banks gives a well-formed cartridge with the mirroring, battery, trainer and bank fields of the header, whose
trainer block is the 512 bytes after the header (empty without a trainer) and whose program and graphics bytes
are the image bytes after that. The order of the checks, and Truncated for an image shorter than a header, are
the model's (log entry 10); the bank counts are the spec's decision D14. Rests on: 20_memory.md R88,
20_memory.md R89, 20_memory.md R90. -/
def Obligations.ImageLoaderRejectsAndBuilds : Prop :=
  (∀ image : List Byte, ¬ signed image → parseImage image = .error .invalidHeader) ∧
  (∀ image : List Byte, signed image → 16 ≤ image.length → ¬ tailAllowed image →
    parseImage image = .error .invalidHeader) ∧
  (∀ image : List Byte, signed image → image.length < 16 → parseImage image = .error .truncated) ∧
  (∀ image : List Byte, signed image → 16 ≤ image.length → tailAllowed image → image.length < claimedLength image →
    parseImage image = .error .truncated) ∧
  (∀ image : List Byte, signed image → tailAllowed image → claimedLength image ≤ image.length →
    (image.getD 4 0#8).toNat ≠ 1 → (image.getD 4 0#8).toNat ≠ 2 → parseImage image = .error .unsupportedBankCount) ∧
  (∀ image : List Byte, signed image → tailAllowed image → claimedLength image ≤ image.length →
    ((image.getD 4 0#8).toNat = 1 ∨ (image.getD 4 0#8).toNat = 2) →
    ∃ c, parseImage image = .ok c ∧ c.wf ∧
      prgCount c.prgBanks = (image.getD 4 0#8).toNat ∧ c.chrBanks = (image.getD 5 0#8).toNat ∧
      (c.mirroring = .vertical ↔ (image.getD 6 0#8).getLsbD 0 = true) ∧ c.battery = (image.getD 6 0#8).getLsbD 1 ∧
      c.trainer = (image.getD 6 0#8).getLsbD 2 ∧
      (∀ k, memRead c.trainerBlock k = if k < trainerLength image then image.getD (16 + k) 0#8 else 0#8) ∧
      (∀ k, k < 16384 * prgCount c.prgBanks → memRead c.prg k = image.getD (16 + trainerLength image + k) 0#8) ∧
      (∀ k, k < 8192 * c.chrBanks →
        memRead c.chr k = image.getD (16 + trainerLength image + 16384 * prgCount c.prgBanks + k) 0#8))

/-! The whole machine. -/

/-- State.reset meets the invariant: its stores are canonical and within their sizes, the VTU counters are in
range, the status register holds at most VBlank, P.U = 1 and P.B = 0. Rests on: 10_state.md R49,
70_reset_and_hazards.md R346. -/
def Obligations.InvariantHoldsAtReset : Prop :=
  Inv State.reset

/-- From every state that meets the invariant, a step that answers a next state answers one that meets it: every
store stays canonical and within its size, cycle stays at most 340 and scanline at most 261, only VBlank of
the status register is ever set, P.U stays 1 and P.B stays 0, and the cartridge stays well-formed. Rests on:
10_state.md R46, 49_video_timing_unit.md R252, 49_video_timing_unit.md R260, 10_state.md R34. -/
def Obligations.EveryStepKeepsTheInvariant : Prop :=
  ∀ s t : State, Inv s → step s = .next t → Inv t

/-- Whenever a step answers a next state, the cartridge and the configuration (INT_CYCLES, the nametable fold) are
the same as before, and no fault is recorded in it. That a step which raises a fault answers no next state is
the model's form of R44 and R301 (the spec's decision D11, log entry 7). Rests on: 10_state.md R48,
20_memory.md R68, 00_scope.md R7, 10_state.md R44, 60_exceptions.md R301. -/
def Obligations.CartridgeAndParametersNeverChange : Prop :=
  ∀ s t : State, step s = .next t → t.cart = s.cart ∧ t.config = s.config ∧ t.fault = none

/-- For every instruction whose execution answers a next state: A, X, Y, SP, each of C, Z, I, D, V, N, and the
stored bytes are unchanged unless the instruction is one of those the spec names as writing that piece of
state; cyc, the fault record, the cartridge, the configuration and the host script are never changed by an
instruction itself. Rests on: 10_state.md R21, 10_state.md R22, 10_state.md R23, 10_state.md R25, 10_state.md
R36. -/
def Obligations.OnlyTheListedInstructionsWriteEachRegister : Prop :=
  ∀ (i : Instr) (m : Mnemonic) (s t : State), mnemonicOf i = some m → exec i s = .next t →
    (t.a = s.a ∨ m ∈ ([.lda, .adc, .sbc, .and, .ora, .eor, .pla, .txa, .tya, .asl, .lsr, .rol, .ror] : List Mnemonic)) ∧
    (t.x = s.x ∨ m ∈ ([.ldx, .tax, .tsx, .inx, .dex] : List Mnemonic)) ∧
    (t.y = s.y ∨ m ∈ ([.ldy, .tay, .iny, .dey] : List Mnemonic)) ∧
    (t.sp = s.sp ∨ m ∈ ([.pha, .php, .pla, .plp, .jsr, .rts, .rti, .brk, .txs] : List Mnemonic)) ∧
    (t.p.c = s.p.c ∨ m ∈ ([.adc, .sbc, .cmp, .cpx, .cpy, .asl, .rol, .lsr, .ror, .clc, .sec, .plp, .rti] : List Mnemonic)) ∧
    (t.p.i = s.p.i ∨ m ∈ ([.cli, .sei, .plp, .rti, .brk] : List Mnemonic)) ∧
    (t.p.d = s.p.d ∨ m ∈ ([.cld, .sed, .plp, .rti] : List Mnemonic)) ∧
    (t.p.v = s.p.v ∨ m ∈ ([.adc, .sbc, .bit, .clv, .plp, .rti] : List Mnemonic)) ∧
    ((t.p.z = s.p.z ∧ t.p.n = s.p.n) ∨
      m ∉ ([.sta, .stx, .sty, .txs, .pha, .php, .jmp, .jsr, .rts, .nop, .bcc, .bcs, .beq, .bne, .bmi, .bpl, .bvc, .bvs, .brk, .clc, .sec, .cli, .sei, .clv, .cld, .sed] : List Mnemonic)) ∧
    ((t.ram = s.ram ∧ t.xram = s.xram ∧ t.vtu.nt = s.vtu.nt ∧ t.vtu.pal = s.vtu.pal ∧ t.vtu.oam = s.vtu.oam) ∨
      m ∈ ([.sta, .stx, .sty, .asl, .lsr, .rol, .ror, .inc, .dec, .pha, .php, .jsr, .brk] : List Mnemonic)) ∧
    t.cyc = s.cyc ∧ t.fault = s.fault ∧ t.cart = s.cart ∧ t.config = s.config ∧ t.hostCalls = s.hostCalls ∧
    t.vtu.cycle = s.vtu.cycle ∧ t.vtu.scanline = s.vtu.scanline

/-- For every instruction other than PHP, BRK (which push D), PLP, RTI, CLD and SED (which write it), and every
state: executing it with D replaced by any value gives exactly the outcome of executing it without, with D
replaced in the next state; faults are the same. Rests on: 10_state.md R31, 41_arithmetic_logic.md R160,
41_arithmetic_logic.md R161. -/
def Obligations.DecimalFlagNeverChangesAResult : Prop :=
  ∀ (i : Instr) (m : Mnemonic) (s : State) (d : Bool), mnemonicOf i = some m →
    m ∉ ([.php, .brk, .plp, .rti, .cld, .sed] : List Mnemonic) →
    exec i { s with p := { s.p with d := d } } =
      Res.map (exec i s) (fun t => { t with p := { t.p with d := d } })
end

