-- ==== Sys2Proof/Laws/Bits.lean ====
section
/-! SUPPORT. The bit-field helpers as numbers. -/

namespace Sys2Proof.Machine

@[simp] theorem zext16_toNat (b : Byte) : (zext16 b).toNat = b.toNat := by
  simp only [zext16, BitVec.truncate_eq_setWidth, BitVec.toNat_setWidth]
  exact Nat.mod_eq_of_lt (by have := b.isLt; omega)

theorem join_toNat (hi lo : Byte) : (join hi lo).toNat = hi.toNat * 0x100 + lo.toNat := by
  have h := lo.isLt
  rw [join, BitVec.toNat_append, Nat.shiftLeft_eq, Nat.mul_comm, ← Nat.two_pow_add_eq_or_of_lt h, Nat.mul_comm]

theorem hiByte_toNat (w : Addr) : (hiByte w).toNat = w.toNat / 0x100 := by
  have h := w.isLt
  simp only [hiByte, BitVec.extractLsb'_toNat, Nat.shiftRight_eq_div_pow]
  exact Nat.mod_eq_of_lt (by omega)

theorem loByte_toNat (w : Addr) : (loByte w).toNat = w.toNat % 0x100 := by
  simp [loByte, BitVec.extractLsb'_toNat]

@[simp] theorem join_hiByte_loByte (w : Addr) : join (hiByte w) (loByte w) = w := by
  apply BitVec.eq_of_toNat_eq
  rw [join_toNat, hiByte_toNat, loByte_toNat]
  omega

@[simp] theorem hiByte_join (hi lo : Byte) : hiByte (join hi lo) = hi := by
  apply BitVec.eq_of_toNat_eq
  have h := lo.isLt
  rw [hiByte_toNat, join_toNat]
  omega

@[simp] theorem loByte_join (hi lo : Byte) : loByte (join hi lo) = lo := by
  apply BitVec.eq_of_toNat_eq
  have h := lo.isLt
  rw [loByte_toNat, join_toNat]
  omega

theorem hiByte_eq_ofNat (w : Addr) : hiByte w = BitVec.ofNat 8 (w.toNat / 0x100) := by
  apply BitVec.eq_of_toNat_eq
  have h := w.isLt
  rw [hiByte_toNat, BitVec.toNat_ofNat]
  omega

theorem loByte_eq_ofNat (w : Addr) : loByte w = BitVec.ofNat 8 (w.toNat % 0x100) := by
  apply BitVec.eq_of_toNat_eq
  rw [loByte_toNat, BitVec.toNat_ofNat]
  omega

theorem hiByte_eq_iff (a b : Addr) : hiByte a = hiByte b ↔ a.toNat / 0x100 = b.toNat / 0x100 := by
  rw [← BitVec.toNat_inj, hiByte_toNat, hiByte_toNat]

theorem vramAddr_toNat (v : Loopy) : (vramAddr v).toNat = v.toNat % 0x4000 := by
  simp [vramAddr, BitVec.extractLsb'_toNat]

theorem bit_seven (b : Byte) : bit b 7 = decide (0x80 ≤ b.toNat) := by
  revert b; decide

theorem withBit7_false (b : Byte) : withBit7 b false = b &&& 0x7F#8 := by
  revert b; decide

theorem withBit7_true (b : Byte) : withBit7 b true = b ||| 0x80#8 := by
  revert b; decide

end Sys2Proof.Machine
end

