-- ==== Sys2Proof/Laws/Flags.lean ====
section
/-! SUPPORT. What each flag computation can do: which flags it writes. -/

namespace Sys2Proof.Machine

/-- `SetZN` in numbers. -/
theorem setZN_eq (v : Byte) (p : Status) : setZN v p = { p with z := decide (v.toNat = 0), n := decide (0x80 ≤ v.toNat) } := by
  have h : decide (v = 0#8) = decide (v.toNat = 0) := by
    rw [decide_eq_decide, ← BitVec.toNat_inj]; rfl
  simp only [setZN, bit_seven, h]

@[simp] theorem setZN_v (v : Byte) (p : Status) : (setZN v p).v = p.v := rfl
@[simp] theorem setZN_u (v : Byte) (p : Status) : (setZN v p).u = p.u := rfl
@[simp] theorem setZN_b (v : Byte) (p : Status) : (setZN v p).b = p.b := rfl
@[simp] theorem setZN_d (v : Byte) (p : Status) : (setZN v p).d = p.d := rfl
@[simp] theorem setZN_i (v : Byte) (p : Status) : (setZN v p).i = p.i := rfl
@[simp] theorem setZN_c (v : Byte) (p : Status) : (setZN v p).c = p.c := rfl

/-- An operation on a byte that keeps U, B, D, I and V, and whose result and other flags do not depend on D. -/
structure PlainOp (op : Byte → Status → Byte × Status) : Prop where
  keeps : ∀ v p, (op v p).2 = { p with n := (op v p).2.n, z := (op v p).2.z, c := (op v p).2.c }
  decimal : ∀ v p d, op v { p with d := d } = ((op v p).1, { (op v p).2 with d := d })

theorem plainOp_shiftLeft : PlainOp shiftLeft := ⟨fun _ _ => rfl, fun _ _ _ => rfl⟩
theorem plainOp_shiftRight : PlainOp shiftRight := ⟨fun _ _ => rfl, fun _ _ _ => rfl⟩
theorem plainOp_rotateLeft : PlainOp rotateLeft := ⟨fun _ _ => rfl, fun _ _ _ => rfl⟩
theorem plainOp_rotateRight : PlainOp rotateRight := ⟨fun _ _ => rfl, fun _ _ _ => rfl⟩
theorem plainOp_increment : PlainOp increment := ⟨fun _ _ => rfl, fun _ _ _ => rfl⟩
theorem plainOp_decrement : PlainOp decrement := ⟨fun _ _ => rfl, fun _ _ _ => rfl⟩

theorem increment_c (v : Byte) (p : Status) : (increment v p).2.c = p.c := rfl
theorem decrement_c (v : Byte) (p : Status) : (decrement v p).2.c = p.c := rfl

/-- The 9-bit sum of ADC as a number. -/
theorem addCarry_sum (a m : Byte) (c : Bool) :
    (a.zeroExtend 9 + m.zeroExtend 9 + (BitVec.ofBool c).zeroExtend 9 : BitVec 9).toNat = a.toNat + m.toNat + c.toNat := by
  have ha := a.isLt
  have hm := m.isLt
  cases c <;> simp [BitVec.toNat_add, BitVec.toNat_setWidth] <;> omega

/-- `UnpackP` gives the normal form of U and B. -/
@[simp] theorem unpackP_u (v : Byte) : (unpackP v).u = true := rfl
@[simp] theorem unpackP_b (v : Byte) : (unpackP v).b = false := rfl

/-- `UnpackP` undoes `PackP` up to U and B. -/
theorem unpackP_packP (brk : Bool) (p : Status) : unpackP (packP brk p) = { p with u := true, b := false } := by
  obtain ⟨n, v, u, b, d, i, z, c⟩ := p
  revert brk n v u b d i z c
  decide

end Sys2Proof.Machine
end

