-- ==== Sys2Proof/Laws/State.lean ====
section
/-! SUPPORT. One lemma per field of State per named update (Machine/State.lean), each true by rfl. -/

namespace Sys2Proof.Machine

@[simp] theorem State.setPc_pc (s : State) (new : Addr) : (s.setPc new).pc = new := rfl
@[simp] theorem State.setPc_a (s : State) (new : Addr) : (s.setPc new).a = s.a := rfl
@[simp] theorem State.setPc_x (s : State) (new : Addr) : (s.setPc new).x = s.x := rfl
@[simp] theorem State.setPc_y (s : State) (new : Addr) : (s.setPc new).y = s.y := rfl
@[simp] theorem State.setPc_sp (s : State) (new : Addr) : (s.setPc new).sp = s.sp := rfl
@[simp] theorem State.setPc_p (s : State) (new : Addr) : (s.setPc new).p = s.p := rfl
@[simp] theorem State.setPc_cyc (s : State) (new : Addr) : (s.setPc new).cyc = s.cyc := rfl
@[simp] theorem State.setPc_scratch (s : State) (new : Addr) : (s.setPc new).scratch = s.scratch := rfl
@[simp] theorem State.setPc_fault (s : State) (new : Addr) : (s.setPc new).fault = s.fault := rfl
@[simp] theorem State.setPc_ram (s : State) (new : Addr) : (s.setPc new).ram = s.ram := rfl
@[simp] theorem State.setPc_xram (s : State) (new : Addr) : (s.setPc new).xram = s.xram := rfl
@[simp] theorem State.setPc_vtu (s : State) (new : Addr) : (s.setPc new).vtu = s.vtu := rfl
@[simp] theorem State.setPc_cart (s : State) (new : Addr) : (s.setPc new).cart = s.cart := rfl
@[simp] theorem State.setPc_config (s : State) (new : Addr) : (s.setPc new).config = s.config := rfl
@[simp] theorem State.setPc_hostCalls (s : State) (new : Addr) : (s.setPc new).hostCalls = s.hostCalls := rfl

@[simp] theorem State.setA_pc (s : State) (new : Byte) : (s.setA new).pc = s.pc := rfl
@[simp] theorem State.setA_a (s : State) (new : Byte) : (s.setA new).a = new := rfl
@[simp] theorem State.setA_x (s : State) (new : Byte) : (s.setA new).x = s.x := rfl
@[simp] theorem State.setA_y (s : State) (new : Byte) : (s.setA new).y = s.y := rfl
@[simp] theorem State.setA_sp (s : State) (new : Byte) : (s.setA new).sp = s.sp := rfl
@[simp] theorem State.setA_p (s : State) (new : Byte) : (s.setA new).p = s.p := rfl
@[simp] theorem State.setA_cyc (s : State) (new : Byte) : (s.setA new).cyc = s.cyc := rfl
@[simp] theorem State.setA_scratch (s : State) (new : Byte) : (s.setA new).scratch = s.scratch := rfl
@[simp] theorem State.setA_fault (s : State) (new : Byte) : (s.setA new).fault = s.fault := rfl
@[simp] theorem State.setA_ram (s : State) (new : Byte) : (s.setA new).ram = s.ram := rfl
@[simp] theorem State.setA_xram (s : State) (new : Byte) : (s.setA new).xram = s.xram := rfl
@[simp] theorem State.setA_vtu (s : State) (new : Byte) : (s.setA new).vtu = s.vtu := rfl
@[simp] theorem State.setA_cart (s : State) (new : Byte) : (s.setA new).cart = s.cart := rfl
@[simp] theorem State.setA_config (s : State) (new : Byte) : (s.setA new).config = s.config := rfl
@[simp] theorem State.setA_hostCalls (s : State) (new : Byte) : (s.setA new).hostCalls = s.hostCalls := rfl

@[simp] theorem State.setX_pc (s : State) (new : Byte) : (s.setX new).pc = s.pc := rfl
@[simp] theorem State.setX_a (s : State) (new : Byte) : (s.setX new).a = s.a := rfl
@[simp] theorem State.setX_x (s : State) (new : Byte) : (s.setX new).x = new := rfl
@[simp] theorem State.setX_y (s : State) (new : Byte) : (s.setX new).y = s.y := rfl
@[simp] theorem State.setX_sp (s : State) (new : Byte) : (s.setX new).sp = s.sp := rfl
@[simp] theorem State.setX_p (s : State) (new : Byte) : (s.setX new).p = s.p := rfl
@[simp] theorem State.setX_cyc (s : State) (new : Byte) : (s.setX new).cyc = s.cyc := rfl
@[simp] theorem State.setX_scratch (s : State) (new : Byte) : (s.setX new).scratch = s.scratch := rfl
@[simp] theorem State.setX_fault (s : State) (new : Byte) : (s.setX new).fault = s.fault := rfl
@[simp] theorem State.setX_ram (s : State) (new : Byte) : (s.setX new).ram = s.ram := rfl
@[simp] theorem State.setX_xram (s : State) (new : Byte) : (s.setX new).xram = s.xram := rfl
@[simp] theorem State.setX_vtu (s : State) (new : Byte) : (s.setX new).vtu = s.vtu := rfl
@[simp] theorem State.setX_cart (s : State) (new : Byte) : (s.setX new).cart = s.cart := rfl
@[simp] theorem State.setX_config (s : State) (new : Byte) : (s.setX new).config = s.config := rfl
@[simp] theorem State.setX_hostCalls (s : State) (new : Byte) : (s.setX new).hostCalls = s.hostCalls := rfl

@[simp] theorem State.setY_pc (s : State) (new : Byte) : (s.setY new).pc = s.pc := rfl
@[simp] theorem State.setY_a (s : State) (new : Byte) : (s.setY new).a = s.a := rfl
@[simp] theorem State.setY_x (s : State) (new : Byte) : (s.setY new).x = s.x := rfl
@[simp] theorem State.setY_y (s : State) (new : Byte) : (s.setY new).y = new := rfl
@[simp] theorem State.setY_sp (s : State) (new : Byte) : (s.setY new).sp = s.sp := rfl
@[simp] theorem State.setY_p (s : State) (new : Byte) : (s.setY new).p = s.p := rfl
@[simp] theorem State.setY_cyc (s : State) (new : Byte) : (s.setY new).cyc = s.cyc := rfl
@[simp] theorem State.setY_scratch (s : State) (new : Byte) : (s.setY new).scratch = s.scratch := rfl
@[simp] theorem State.setY_fault (s : State) (new : Byte) : (s.setY new).fault = s.fault := rfl
@[simp] theorem State.setY_ram (s : State) (new : Byte) : (s.setY new).ram = s.ram := rfl
@[simp] theorem State.setY_xram (s : State) (new : Byte) : (s.setY new).xram = s.xram := rfl
@[simp] theorem State.setY_vtu (s : State) (new : Byte) : (s.setY new).vtu = s.vtu := rfl
@[simp] theorem State.setY_cart (s : State) (new : Byte) : (s.setY new).cart = s.cart := rfl
@[simp] theorem State.setY_config (s : State) (new : Byte) : (s.setY new).config = s.config := rfl
@[simp] theorem State.setY_hostCalls (s : State) (new : Byte) : (s.setY new).hostCalls = s.hostCalls := rfl

@[simp] theorem State.setSp_pc (s : State) (new : Byte) : (s.setSp new).pc = s.pc := rfl
@[simp] theorem State.setSp_a (s : State) (new : Byte) : (s.setSp new).a = s.a := rfl
@[simp] theorem State.setSp_x (s : State) (new : Byte) : (s.setSp new).x = s.x := rfl
@[simp] theorem State.setSp_y (s : State) (new : Byte) : (s.setSp new).y = s.y := rfl
@[simp] theorem State.setSp_sp (s : State) (new : Byte) : (s.setSp new).sp = new := rfl
@[simp] theorem State.setSp_p (s : State) (new : Byte) : (s.setSp new).p = s.p := rfl
@[simp] theorem State.setSp_cyc (s : State) (new : Byte) : (s.setSp new).cyc = s.cyc := rfl
@[simp] theorem State.setSp_scratch (s : State) (new : Byte) : (s.setSp new).scratch = s.scratch := rfl
@[simp] theorem State.setSp_fault (s : State) (new : Byte) : (s.setSp new).fault = s.fault := rfl
@[simp] theorem State.setSp_ram (s : State) (new : Byte) : (s.setSp new).ram = s.ram := rfl
@[simp] theorem State.setSp_xram (s : State) (new : Byte) : (s.setSp new).xram = s.xram := rfl
@[simp] theorem State.setSp_vtu (s : State) (new : Byte) : (s.setSp new).vtu = s.vtu := rfl
@[simp] theorem State.setSp_cart (s : State) (new : Byte) : (s.setSp new).cart = s.cart := rfl
@[simp] theorem State.setSp_config (s : State) (new : Byte) : (s.setSp new).config = s.config := rfl
@[simp] theorem State.setSp_hostCalls (s : State) (new : Byte) : (s.setSp new).hostCalls = s.hostCalls := rfl

@[simp] theorem State.setP_pc (s : State) (new : Status) : (s.setP new).pc = s.pc := rfl
@[simp] theorem State.setP_a (s : State) (new : Status) : (s.setP new).a = s.a := rfl
@[simp] theorem State.setP_x (s : State) (new : Status) : (s.setP new).x = s.x := rfl
@[simp] theorem State.setP_y (s : State) (new : Status) : (s.setP new).y = s.y := rfl
@[simp] theorem State.setP_sp (s : State) (new : Status) : (s.setP new).sp = s.sp := rfl
@[simp] theorem State.setP_p (s : State) (new : Status) : (s.setP new).p = new := rfl
@[simp] theorem State.setP_cyc (s : State) (new : Status) : (s.setP new).cyc = s.cyc := rfl
@[simp] theorem State.setP_scratch (s : State) (new : Status) : (s.setP new).scratch = s.scratch := rfl
@[simp] theorem State.setP_fault (s : State) (new : Status) : (s.setP new).fault = s.fault := rfl
@[simp] theorem State.setP_ram (s : State) (new : Status) : (s.setP new).ram = s.ram := rfl
@[simp] theorem State.setP_xram (s : State) (new : Status) : (s.setP new).xram = s.xram := rfl
@[simp] theorem State.setP_vtu (s : State) (new : Status) : (s.setP new).vtu = s.vtu := rfl
@[simp] theorem State.setP_cart (s : State) (new : Status) : (s.setP new).cart = s.cart := rfl
@[simp] theorem State.setP_config (s : State) (new : Status) : (s.setP new).config = s.config := rfl
@[simp] theorem State.setP_hostCalls (s : State) (new : Status) : (s.setP new).hostCalls = s.hostCalls := rfl

@[simp] theorem State.setCyc_pc (s : State) (new : Nat) : (s.setCyc new).pc = s.pc := rfl
@[simp] theorem State.setCyc_a (s : State) (new : Nat) : (s.setCyc new).a = s.a := rfl
@[simp] theorem State.setCyc_x (s : State) (new : Nat) : (s.setCyc new).x = s.x := rfl
@[simp] theorem State.setCyc_y (s : State) (new : Nat) : (s.setCyc new).y = s.y := rfl
@[simp] theorem State.setCyc_sp (s : State) (new : Nat) : (s.setCyc new).sp = s.sp := rfl
@[simp] theorem State.setCyc_p (s : State) (new : Nat) : (s.setCyc new).p = s.p := rfl
@[simp] theorem State.setCyc_cyc (s : State) (new : Nat) : (s.setCyc new).cyc = new := rfl
@[simp] theorem State.setCyc_scratch (s : State) (new : Nat) : (s.setCyc new).scratch = s.scratch := rfl
@[simp] theorem State.setCyc_fault (s : State) (new : Nat) : (s.setCyc new).fault = s.fault := rfl
@[simp] theorem State.setCyc_ram (s : State) (new : Nat) : (s.setCyc new).ram = s.ram := rfl
@[simp] theorem State.setCyc_xram (s : State) (new : Nat) : (s.setCyc new).xram = s.xram := rfl
@[simp] theorem State.setCyc_vtu (s : State) (new : Nat) : (s.setCyc new).vtu = s.vtu := rfl
@[simp] theorem State.setCyc_cart (s : State) (new : Nat) : (s.setCyc new).cart = s.cart := rfl
@[simp] theorem State.setCyc_config (s : State) (new : Nat) : (s.setCyc new).config = s.config := rfl
@[simp] theorem State.setCyc_hostCalls (s : State) (new : Nat) : (s.setCyc new).hostCalls = s.hostCalls := rfl

@[simp] theorem State.setScratch_pc (s : State) (new : Scratch) : (s.setScratch new).pc = s.pc := rfl
@[simp] theorem State.setScratch_a (s : State) (new : Scratch) : (s.setScratch new).a = s.a := rfl
@[simp] theorem State.setScratch_x (s : State) (new : Scratch) : (s.setScratch new).x = s.x := rfl
@[simp] theorem State.setScratch_y (s : State) (new : Scratch) : (s.setScratch new).y = s.y := rfl
@[simp] theorem State.setScratch_sp (s : State) (new : Scratch) : (s.setScratch new).sp = s.sp := rfl
@[simp] theorem State.setScratch_p (s : State) (new : Scratch) : (s.setScratch new).p = s.p := rfl
@[simp] theorem State.setScratch_cyc (s : State) (new : Scratch) : (s.setScratch new).cyc = s.cyc := rfl
@[simp] theorem State.setScratch_scratch (s : State) (new : Scratch) : (s.setScratch new).scratch = new := rfl
@[simp] theorem State.setScratch_fault (s : State) (new : Scratch) : (s.setScratch new).fault = s.fault := rfl
@[simp] theorem State.setScratch_ram (s : State) (new : Scratch) : (s.setScratch new).ram = s.ram := rfl
@[simp] theorem State.setScratch_xram (s : State) (new : Scratch) : (s.setScratch new).xram = s.xram := rfl
@[simp] theorem State.setScratch_vtu (s : State) (new : Scratch) : (s.setScratch new).vtu = s.vtu := rfl
@[simp] theorem State.setScratch_cart (s : State) (new : Scratch) : (s.setScratch new).cart = s.cart := rfl
@[simp] theorem State.setScratch_config (s : State) (new : Scratch) : (s.setScratch new).config = s.config := rfl
@[simp] theorem State.setScratch_hostCalls (s : State) (new : Scratch) : (s.setScratch new).hostCalls = s.hostCalls := rfl

@[simp] theorem State.setRam_pc (s : State) (new : Memory) : (s.setRam new).pc = s.pc := rfl
@[simp] theorem State.setRam_a (s : State) (new : Memory) : (s.setRam new).a = s.a := rfl
@[simp] theorem State.setRam_x (s : State) (new : Memory) : (s.setRam new).x = s.x := rfl
@[simp] theorem State.setRam_y (s : State) (new : Memory) : (s.setRam new).y = s.y := rfl
@[simp] theorem State.setRam_sp (s : State) (new : Memory) : (s.setRam new).sp = s.sp := rfl
@[simp] theorem State.setRam_p (s : State) (new : Memory) : (s.setRam new).p = s.p := rfl
@[simp] theorem State.setRam_cyc (s : State) (new : Memory) : (s.setRam new).cyc = s.cyc := rfl
@[simp] theorem State.setRam_scratch (s : State) (new : Memory) : (s.setRam new).scratch = s.scratch := rfl
@[simp] theorem State.setRam_fault (s : State) (new : Memory) : (s.setRam new).fault = s.fault := rfl
@[simp] theorem State.setRam_ram (s : State) (new : Memory) : (s.setRam new).ram = new := rfl
@[simp] theorem State.setRam_xram (s : State) (new : Memory) : (s.setRam new).xram = s.xram := rfl
@[simp] theorem State.setRam_vtu (s : State) (new : Memory) : (s.setRam new).vtu = s.vtu := rfl
@[simp] theorem State.setRam_cart (s : State) (new : Memory) : (s.setRam new).cart = s.cart := rfl
@[simp] theorem State.setRam_config (s : State) (new : Memory) : (s.setRam new).config = s.config := rfl
@[simp] theorem State.setRam_hostCalls (s : State) (new : Memory) : (s.setRam new).hostCalls = s.hostCalls := rfl

@[simp] theorem State.setXram_pc (s : State) (new : Memory) : (s.setXram new).pc = s.pc := rfl
@[simp] theorem State.setXram_a (s : State) (new : Memory) : (s.setXram new).a = s.a := rfl
@[simp] theorem State.setXram_x (s : State) (new : Memory) : (s.setXram new).x = s.x := rfl
@[simp] theorem State.setXram_y (s : State) (new : Memory) : (s.setXram new).y = s.y := rfl
@[simp] theorem State.setXram_sp (s : State) (new : Memory) : (s.setXram new).sp = s.sp := rfl
@[simp] theorem State.setXram_p (s : State) (new : Memory) : (s.setXram new).p = s.p := rfl
@[simp] theorem State.setXram_cyc (s : State) (new : Memory) : (s.setXram new).cyc = s.cyc := rfl
@[simp] theorem State.setXram_scratch (s : State) (new : Memory) : (s.setXram new).scratch = s.scratch := rfl
@[simp] theorem State.setXram_fault (s : State) (new : Memory) : (s.setXram new).fault = s.fault := rfl
@[simp] theorem State.setXram_ram (s : State) (new : Memory) : (s.setXram new).ram = s.ram := rfl
@[simp] theorem State.setXram_xram (s : State) (new : Memory) : (s.setXram new).xram = new := rfl
@[simp] theorem State.setXram_vtu (s : State) (new : Memory) : (s.setXram new).vtu = s.vtu := rfl
@[simp] theorem State.setXram_cart (s : State) (new : Memory) : (s.setXram new).cart = s.cart := rfl
@[simp] theorem State.setXram_config (s : State) (new : Memory) : (s.setXram new).config = s.config := rfl
@[simp] theorem State.setXram_hostCalls (s : State) (new : Memory) : (s.setXram new).hostCalls = s.hostCalls := rfl

@[simp] theorem State.setVtu_pc (s : State) (new : Vtu) : (s.setVtu new).pc = s.pc := rfl
@[simp] theorem State.setVtu_a (s : State) (new : Vtu) : (s.setVtu new).a = s.a := rfl
@[simp] theorem State.setVtu_x (s : State) (new : Vtu) : (s.setVtu new).x = s.x := rfl
@[simp] theorem State.setVtu_y (s : State) (new : Vtu) : (s.setVtu new).y = s.y := rfl
@[simp] theorem State.setVtu_sp (s : State) (new : Vtu) : (s.setVtu new).sp = s.sp := rfl
@[simp] theorem State.setVtu_p (s : State) (new : Vtu) : (s.setVtu new).p = s.p := rfl
@[simp] theorem State.setVtu_cyc (s : State) (new : Vtu) : (s.setVtu new).cyc = s.cyc := rfl
@[simp] theorem State.setVtu_scratch (s : State) (new : Vtu) : (s.setVtu new).scratch = s.scratch := rfl
@[simp] theorem State.setVtu_fault (s : State) (new : Vtu) : (s.setVtu new).fault = s.fault := rfl
@[simp] theorem State.setVtu_ram (s : State) (new : Vtu) : (s.setVtu new).ram = s.ram := rfl
@[simp] theorem State.setVtu_xram (s : State) (new : Vtu) : (s.setVtu new).xram = s.xram := rfl
@[simp] theorem State.setVtu_vtu (s : State) (new : Vtu) : (s.setVtu new).vtu = new := rfl
@[simp] theorem State.setVtu_cart (s : State) (new : Vtu) : (s.setVtu new).cart = s.cart := rfl
@[simp] theorem State.setVtu_config (s : State) (new : Vtu) : (s.setVtu new).config = s.config := rfl
@[simp] theorem State.setVtu_hostCalls (s : State) (new : Vtu) : (s.setVtu new).hostCalls = s.hostCalls := rfl

@[simp] theorem State.setHostCalls_pc (s : State) (new : List (List Signal)) : (s.setHostCalls new).pc = s.pc := rfl
@[simp] theorem State.setHostCalls_a (s : State) (new : List (List Signal)) : (s.setHostCalls new).a = s.a := rfl
@[simp] theorem State.setHostCalls_x (s : State) (new : List (List Signal)) : (s.setHostCalls new).x = s.x := rfl
@[simp] theorem State.setHostCalls_y (s : State) (new : List (List Signal)) : (s.setHostCalls new).y = s.y := rfl
@[simp] theorem State.setHostCalls_sp (s : State) (new : List (List Signal)) : (s.setHostCalls new).sp = s.sp := rfl
@[simp] theorem State.setHostCalls_p (s : State) (new : List (List Signal)) : (s.setHostCalls new).p = s.p := rfl
@[simp] theorem State.setHostCalls_cyc (s : State) (new : List (List Signal)) : (s.setHostCalls new).cyc = s.cyc := rfl
@[simp] theorem State.setHostCalls_scratch (s : State) (new : List (List Signal)) : (s.setHostCalls new).scratch = s.scratch := rfl
@[simp] theorem State.setHostCalls_fault (s : State) (new : List (List Signal)) : (s.setHostCalls new).fault = s.fault := rfl
@[simp] theorem State.setHostCalls_ram (s : State) (new : List (List Signal)) : (s.setHostCalls new).ram = s.ram := rfl
@[simp] theorem State.setHostCalls_xram (s : State) (new : List (List Signal)) : (s.setHostCalls new).xram = s.xram := rfl
@[simp] theorem State.setHostCalls_vtu (s : State) (new : List (List Signal)) : (s.setHostCalls new).vtu = s.vtu := rfl
@[simp] theorem State.setHostCalls_cart (s : State) (new : List (List Signal)) : (s.setHostCalls new).cart = s.cart := rfl
@[simp] theorem State.setHostCalls_config (s : State) (new : List (List Signal)) : (s.setHostCalls new).config = s.config := rfl
@[simp] theorem State.setHostCalls_hostCalls (s : State) (new : List (List Signal)) : (s.setHostCalls new).hostCalls = new := rfl

@[simp] theorem State.setFault_pc (s : State) (new : Option Fault) : (s.setFault new).pc = s.pc := rfl
@[simp] theorem State.setFault_a (s : State) (new : Option Fault) : (s.setFault new).a = s.a := rfl
@[simp] theorem State.setFault_x (s : State) (new : Option Fault) : (s.setFault new).x = s.x := rfl
@[simp] theorem State.setFault_y (s : State) (new : Option Fault) : (s.setFault new).y = s.y := rfl
@[simp] theorem State.setFault_sp (s : State) (new : Option Fault) : (s.setFault new).sp = s.sp := rfl
@[simp] theorem State.setFault_p (s : State) (new : Option Fault) : (s.setFault new).p = s.p := rfl
@[simp] theorem State.setFault_cyc (s : State) (new : Option Fault) : (s.setFault new).cyc = s.cyc := rfl
@[simp] theorem State.setFault_scratch (s : State) (new : Option Fault) : (s.setFault new).scratch = s.scratch := rfl
@[simp] theorem State.setFault_fault (s : State) (new : Option Fault) : (s.setFault new).fault = new := rfl
@[simp] theorem State.setFault_ram (s : State) (new : Option Fault) : (s.setFault new).ram = s.ram := rfl
@[simp] theorem State.setFault_xram (s : State) (new : Option Fault) : (s.setFault new).xram = s.xram := rfl
@[simp] theorem State.setFault_vtu (s : State) (new : Option Fault) : (s.setFault new).vtu = s.vtu := rfl
@[simp] theorem State.setFault_cart (s : State) (new : Option Fault) : (s.setFault new).cart = s.cart := rfl
@[simp] theorem State.setFault_config (s : State) (new : Option Fault) : (s.setFault new).config = s.config := rfl
@[simp] theorem State.setFault_hostCalls (s : State) (new : Option Fault) : (s.setFault new).hostCalls = s.hostCalls := rfl

@[simp] theorem State.setCart_pc (s : State) (new : Option Cartridge) : (s.setCart new).pc = s.pc := rfl
@[simp] theorem State.setCart_a (s : State) (new : Option Cartridge) : (s.setCart new).a = s.a := rfl
@[simp] theorem State.setCart_x (s : State) (new : Option Cartridge) : (s.setCart new).x = s.x := rfl
@[simp] theorem State.setCart_y (s : State) (new : Option Cartridge) : (s.setCart new).y = s.y := rfl
@[simp] theorem State.setCart_sp (s : State) (new : Option Cartridge) : (s.setCart new).sp = s.sp := rfl
@[simp] theorem State.setCart_p (s : State) (new : Option Cartridge) : (s.setCart new).p = s.p := rfl
@[simp] theorem State.setCart_cyc (s : State) (new : Option Cartridge) : (s.setCart new).cyc = s.cyc := rfl
@[simp] theorem State.setCart_scratch (s : State) (new : Option Cartridge) : (s.setCart new).scratch = s.scratch := rfl
@[simp] theorem State.setCart_fault (s : State) (new : Option Cartridge) : (s.setCart new).fault = s.fault := rfl
@[simp] theorem State.setCart_ram (s : State) (new : Option Cartridge) : (s.setCart new).ram = s.ram := rfl
@[simp] theorem State.setCart_xram (s : State) (new : Option Cartridge) : (s.setCart new).xram = s.xram := rfl
@[simp] theorem State.setCart_vtu (s : State) (new : Option Cartridge) : (s.setCart new).vtu = s.vtu := rfl
@[simp] theorem State.setCart_cart (s : State) (new : Option Cartridge) : (s.setCart new).cart = new := rfl
@[simp] theorem State.setCart_config (s : State) (new : Option Cartridge) : (s.setCart new).config = s.config := rfl
@[simp] theorem State.setCart_hostCalls (s : State) (new : Option Cartridge) : (s.setCart new).hostCalls = s.hostCalls := rfl

end Sys2Proof.Machine
end

