-- ==== Sys2Proof/Laws/Memory.lean ====
section
/-! SUPPORT. The byte stores: reading after a write, the canonical form kept, and equal contents being equal data. -/

namespace Sys2Proof.Machine

theorem memRead_memErase (m : Memory) (i j : Nat) :
    memRead (memErase m i) j = if j = i then unlisted else memRead m j := by
  induction m with
  | nil => simp [memErase, memRead]
  | cons c rest ih =>
    obtain ⟨k, b⟩ := c
    simp only [memErase]
    split
    · next h => subst h; rw [ih]; simp only [memRead]; split_ifs <;> first | rfl | omega
    · next h => simp only [memRead]; rw [ih]; split_ifs <;> first | rfl | omega

theorem memRead_memInsert (m : Memory) (i j : Nat) (v : Byte) :
    memRead (memInsert m i v) j = if j = i then v else memRead m j := by
  induction m with
  | nil => simp only [memInsert, memRead, eq_comm]
  | cons c rest ih =>
    obtain ⟨k, b⟩ := c
    simp only [memInsert]
    split
    · simp only [memRead, eq_comm (a := i)]
    · split
      · next h => subst h; simp only [memRead]; split_ifs <;> first | rfl | omega
      · simp only [memRead]; rw [ih]; split_ifs <;> first | rfl | omega

/-- A byte read after a write: the byte written at that index, the old byte everywhere else. -/
theorem memRead_memWrite (m : Memory) (i j : Nat) (v : Byte) :
    memRead (memWrite m i v) j = if j = i then v else memRead m j := by
  unfold memWrite
  split
  · next h => rw [memRead_memErase, h]
  · exact memRead_memInsert m i j v

@[simp] theorem memRead_memWrite_same (m : Memory) (i : Nat) (v : Byte) : memRead (memWrite m i v) i = v := by
  simp [memRead_memWrite]

theorem memRead_memWrite_other {m : Memory} {i j : Nat} {v : Byte} (h : j ≠ i) :
    memRead (memWrite m i v) j = memRead m j := by
  simp [memRead_memWrite, h]

theorem mem_of_mem_memErase {m : Memory} {i : Nat} {c : Host.Cell} (h : c ∈ memErase m i) : c ∈ m := by
  induction m with
  | nil => exact h
  | cons d rest ih =>
    simp only [memErase] at h
    split at h
    · exact List.mem_cons_of_mem _ (ih h)
    · rcases List.mem_cons.mp h with rfl | h
      · exact List.mem_cons_self ..
      · exact List.mem_cons_of_mem _ (ih h)

theorem eq_or_mem_of_mem_memInsert {m : Memory} {i : Nat} {v : Byte} {c : Host.Cell} (h : c ∈ memInsert m i v) :
    c = (i, v) ∨ c ∈ m := by
  induction m with
  | nil => simpa [memInsert] using h
  | cons d rest ih =>
    simp only [memInsert] at h
    split at h
    · simpa using h
    · split at h
      · rcases List.mem_cons.mp h with rfl | h
        · exact .inl rfl
        · exact .inr (List.mem_cons_of_mem _ h)
      · rcases List.mem_cons.mp h with rfl | h
        · exact .inr (List.mem_cons_self ..)
        · exact (ih h).imp id (List.mem_cons_of_mem _)

theorem memErase_rising {m : Memory} (i : Nat) (h : m.Pairwise (fun c d => c.1 < d.1)) :
    (memErase m i).Pairwise (fun c d => c.1 < d.1) := by
  induction m with
  | nil => exact h
  | cons d rest ih =>
    rw [List.pairwise_cons] at h
    simp only [memErase]
    split
    · exact ih h.2
    · exact List.pairwise_cons.mpr ⟨fun e he => h.1 e (mem_of_mem_memErase he), ih h.2⟩

theorem memInsert_rising {m : Memory} (i : Nat) (v : Byte) (h : m.Pairwise (fun c d => c.1 < d.1)) :
    (memInsert m i v).Pairwise (fun c d => c.1 < d.1) := by
  induction m with
  | nil => simp [memInsert]
  | cons d rest ih =>
    have h' := List.pairwise_cons.mp h
    simp only [memInsert]
    split
    · next lt =>
      refine List.pairwise_cons.mpr ⟨fun e he => ?_, h⟩
      rcases List.mem_cons.mp he with rfl | he
      · exact lt
      · exact lt.trans (h'.1 e he)
    · split
      · next eq => exact List.pairwise_cons.mpr ⟨fun e he => by have := h'.1 e he; omega, h'.2⟩
      · refine List.pairwise_cons.mpr ⟨fun e he => ?_, ih h'.2⟩
        rcases eq_or_mem_of_mem_memInsert he with rfl | he
        · simp only; omega
        · exact h'.1 e he

/-- A write inside the store keeps the canonical form. -/
theorem memWrite_wf {size : Nat} {m : Memory} {i : Nat} (v : Byte) (hi : i < size) (h : memWf size m) :
    memWf size (memWrite m i v) := by
  unfold memWrite
  split
  · exact ⟨memErase_rising i h.1, fun c hc => h.2 c (mem_of_mem_memErase hc)⟩
  · next hv =>
    refine ⟨memInsert_rising i v h.1, fun c hc => ?_⟩
    rcases eq_or_mem_of_mem_memInsert hc with rfl | hc
    · exact ⟨hi, hv⟩
    · exact h.2 c hc

@[simp] theorem memWf_nil (size : Nat) : memWf size [] := ⟨List.Pairwise.nil, by simp⟩

/-- An index below every listed one reads as unlisted. -/
theorem memRead_below {m : Memory} {i : Nat} (h : ∀ c ∈ m, i < c.1) : memRead m i = unlisted := by
  induction m with
  | nil => rfl
  | cons d rest ih =>
    have hd := h d (List.mem_cons_self ..)
    simp only [memRead]
    rw [if_neg (by omega)]
    exact ih fun c hc => h c (List.mem_cons_of_mem _ hc)

/-- Canonical stores with the same bytes are the same data. -/
theorem eq_of_memRead_eq {n k : Nat} {m m' : Memory} (h : memWf n m) (h' : memWf k m')
    (same : ∀ i, memRead m i = memRead m' i) : m = m' := by
  induction m generalizing m' with
  | nil =>
    cases m' with
    | nil => rfl
    | cons d rest =>
      have := same d.1
      simp only [memRead, ↓reduceIte] at this
      exact absurd this.symm (h'.2 d (List.mem_cons_self ..)).2
  | cons c rest ih =>
    have hc := List.pairwise_cons.mp h.1
    cases m' with
    | nil =>
      have := same c.1
      simp only [memRead, ↓reduceIte] at this
      exact absurd this (h.2 c (List.mem_cons_self ..)).2
    | cons d rest' =>
      have hd := List.pairwise_cons.mp h'.1
      have first : c.1 = d.1 := by
        rcases Nat.lt_trichotomy c.1 d.1 with lt | eq | gt
        · have := same c.1
          rw [memRead_below (m := d :: rest') (i := c.1)] at this
          · simp only [memRead, ↓reduceIte] at this
            exact absurd this (h.2 c (List.mem_cons_self ..)).2
          · intro e he
            rcases List.mem_cons.mp he with rfl | he
            · exact lt
            · exact lt.trans (hd.1 e he)
        · exact eq
        · have := same d.1
          rw [memRead_below (m := c :: rest) (i := d.1)] at this
          · simp only [memRead, ↓reduceIte] at this
            exact absurd this.symm (h'.2 d (List.mem_cons_self ..)).2
          · intro e he
            rcases List.mem_cons.mp he with rfl | he
            · exact gt
            · exact gt.trans (hc.1 e he)
      have value : c.2 = d.2 := by
        have := same c.1
        simpa only [memRead, ↓reduceIte, first] using this
      have tail : rest = rest' := by
        refine ih ⟨hc.2, fun e he => h.2 e (List.mem_cons_of_mem _ he)⟩
          ⟨hd.2, fun e he => h'.2 e (List.mem_cons_of_mem _ he)⟩ fun i => ?_
        by_cases hi : i ≤ c.1
        · rw [memRead_below fun e he => lt_of_le_of_lt hi (hc.1 e he),
            memRead_below fun e he => lt_of_le_of_lt (first ▸ hi) (hd.1 e he)]
        · have := same i
          simpa only [memRead, if_neg (show ¬ c.1 = i by omega), if_neg (show ¬ d.1 = i by omega)] using this
      rw [tail, show c = d from Prod.ext first value]

/-- The bytes `memOfBytes` stores. -/
theorem memRead_memOfBytes (bytes : List Byte) (i j : Nat) :
    memRead (memOfBytes i bytes) j = if i ≤ j then bytes.getD (j - i) unlisted else unlisted := by
  induction bytes generalizing i with
  | nil => simp [memOfBytes, memRead]
  | cons b bs ih =>
    simp only [memOfBytes]
    have step : ∀ k, i + 1 ≤ k → (b :: bs).getD (k - i) unlisted = bs.getD (k - (i + 1)) unlisted := by
      intro k hk
      obtain ⟨n, rfl⟩ := Nat.exists_eq_add_of_le hk
      rw [show i + 1 + n - i = n + 1 by omega, show i + 1 + n - (i + 1) = n by omega, List.getD_cons_succ]
    split
    · next hb =>
      rw [ih]
      by_cases h : i + 1 ≤ j
      · rw [if_pos h, if_pos (by omega), step j h]
      · rw [if_neg h]
        by_cases e : i ≤ j
        · rw [if_pos e, show j - i = 0 by omega, List.getD_cons_zero, hb]
        · rw [if_neg e]
    · simp only [memRead]
      by_cases e : i = j
      · subst e; simp
      · rw [if_neg e, ih]
        by_cases h : i + 1 ≤ j
        · rw [if_pos h, if_pos (by omega), step j h]
        · rw [if_neg h, if_neg (by omega)]

theorem le_of_mem_memOfBytes {bytes : List Byte} {i : Nat} {c : Host.Cell} (h : c ∈ memOfBytes i bytes) :
    i ≤ c.1 ∧ c.1 < i + bytes.length ∧ c.2 ≠ unlisted := by
  induction bytes generalizing i with
  | nil => simp [memOfBytes] at h
  | cons b bs ih =>
    simp only [memOfBytes] at h
    simp only [List.length_cons]
    split at h
    · have := ih h; exact ⟨by omega, by omega, this.2.2⟩
    · next hb =>
      rcases List.mem_cons.mp h with rfl | h
      · exact ⟨le_refl _, by simp, hb⟩
      · have := ih h; exact ⟨by omega, by omega, this.2.2⟩

/-- `memOfBytes` answers a canonical store. -/
theorem memOfBytes_wf {bytes : List Byte} {size : Nat} (h : bytes.length ≤ size) : memWf size (memOfBytes 0 bytes) := by
  have rising : ∀ i, (memOfBytes i bytes).Pairwise (fun c d => c.1 < d.1) := by
    induction bytes with
    | nil => intro i; simp [memOfBytes]
    | cons b bs ih =>
      intro i
      have tail := ih (by simp only [List.length_cons] at h; omega)
      simp only [memOfBytes]
      split
      · exact tail _
      · exact List.pairwise_cons.mpr ⟨fun e he => by have := (le_of_mem_memOfBytes he).1; simp only; omega, tail _⟩
  exact ⟨rising 0, fun c hc => by have := le_of_mem_memOfBytes hc; exact ⟨by omega, this.2.2⟩⟩

end Sys2Proof.Machine
end

