-- ==== Sys2Proof/Laws/Res.lean ====
section
/-! SUPPORT. Sequencing: what a sequence answers, and what it means that one answers a next state. -/

namespace Sys2Proof.Machine

@[simp] theorem Res.andThen_next {α β : Type} (v : α) (f : α → Res β) : Res.andThen (.next v) f = f v := rfl
@[simp] theorem Res.andThen_fault {α β : Type} (e : Fault) (f : α → Res β) : Res.andThen (.fault e) f = .fault e := rfl
@[simp] theorem Res.andThen_refused {α β : Type} (e : Refusal) (f : α → Res β) : Res.andThen (.refused e) f = .refused e := rfl
@[simp] theorem Res.map_next {α β : Type} (v : α) (f : α → β) : Res.map (.next v) f = .next (f v) := rfl
@[simp] theorem Res.map_fault {α β : Type} (e : Fault) (f : α → β) : Res.map (.fault e) f = .fault e := rfl
@[simp] theorem Res.map_refused {α β : Type} (e : Refusal) (f : α → β) : Res.map (.refused e) f = .refused e := rfl

theorem Res.andThen_assoc {α β γ : Type} (r : Res α) (f : α → Res β) (g : β → Res γ) :
    (r.andThen f).andThen g = r.andThen fun v => (f v).andThen g := by
  cases r <;> rfl

theorem Res.map_eq_andThen {α β : Type} (r : Res α) (f : α → β) : r.map f = r.andThen fun v => .next (f v) := rfl

theorem Res.map_map {α β γ : Type} (r : Res α) (f : α → β) (g : β → γ) : (r.map f).map g = r.map (g ∘ f) := by
  cases r <;> rfl

theorem Res.map_id {α : Type} (r : Res α) : r.map id = r := by cases r <;> rfl

/-- A sequence answers a value exactly when its first part does and the second does on that value. -/
theorem Res.andThen_eq_next {α β : Type} {r : Res α} {f : α → Res β} {w : β} :
    r.andThen f = .next w ↔ ∃ v, r = .next v ∧ f v = .next w := by
  cases r <;> simp

theorem Res.map_eq_next {α β : Type} {r : Res α} {f : α → β} {w : β} :
    r.map f = .next w ↔ ∃ v, r = .next v ∧ f v = w := by
  cases r <;> simp

theorem Res.andThen_eq_fault {α β : Type} {r : Res α} {f : α → Res β} {e : Fault} :
    r.andThen f = .fault e ↔ r = .fault e ∨ ∃ v, r = .next v ∧ f v = .fault e := by
  cases r <;> simp

theorem Res.map_eq_fault {α β : Type} {r : Res α} {f : α → β} {e : Fault} : r.map f = .fault e ↔ r = .fault e := by
  cases r <;> simp

end Sys2Proof.Machine
end

