-- ==== Sys2Proof/Laws/Vtu.lean ====
section
/-! SUPPORT. What the VTU's operations can do: which fields each port writes, index bounds, and what one tick does. -/

namespace Sys2Proof.Machine

theorem palIndex_lt (a : VAddr) : palIndex a < palSize := by
  have : a.toNat % palSize < palSize := Nat.mod_lt _ (by decide)
  simp only [palIndex]
  split <;> simp only [palSize] at * <;> omega

theorem ntHalf_le_one (fold : NtFold) (mirroring : Mirroring) (q : BitVec 2) : ntHalf fold mirroring q ≤ 1 := by
  cases fold <;> cases mirroring <;> simp only [ntHalf] <;> split_ifs <;> omega

theorem ntIndex_lt (fold : NtFold) (mirroring : Mirroring) (a : VAddr) : ntIndex fold mirroring a < ntSize := by
  have h := ntHalf_le_one fold mirroring (a.extractLsb' 10 2)
  have := (a.extractLsb' 0 10).isLt
  simp only [ntIndex, ntSize] at *
  omega

/-- Every port read that completes: only status, toggle, buffer and `v` can change, and status only in bit 7. -/
theorem readPort_frame {port : Port} {cart : Option Cartridge} {cfg : Config} {u u' : Vtu} {b : Byte}
    (h : readPort port cart cfg u = .next (b, u')) :
    u' = { u with status := u'.status, w := u'.w, rbuf := u'.rbuf, v := u'.v } ∧
    (u'.status = u.status ∨ u'.status = withBit7 u.status false) := by
  cases port <;> simp only [readPort, readStatus, readData, Vtu.advance, Res.map_eq_next, Host.Outcome.next.injEq,
    Prod.mk.injEq] at h
  all_goals first
    | (obtain ⟨-, rfl⟩ := h; simp)
    | (obtain ⟨-, -, -, rfl⟩ := h; simp)

/-- Every port write that completes keeps the counters, the status register and the read buffer. -/
theorem writePort_frame {port : Port} {a : Addr} {cart : Option Cartridge} {cfg : Config} {x : Byte} {u u' : Vtu}
    (h : writePort port a cart cfg x u = .next u') :
    u'.cycle = u.cycle ∧ u'.scanline = u.scanline ∧ u'.status = u.status ∧ u'.rbuf = u.rbuf := by
  cases port <;> simp only [writePort, writeControl, writeMask, writeOamAddress, writeOamData, writeScroll, writeAddress,
    writeData, vramWrite, Vtu.advance, Res.map_eq_next, Host.Outcome.next.injEq, reduceCtorEq] at h
  case data =>
    obtain ⟨w, hw, rfl⟩ := h
    split at hw
    · split at hw
      · cases hw
      · split at hw <;> (cases hw; exact ⟨rfl, rfl, rfl, rfl⟩)
    · cases hw; exact ⟨rfl, rfl, rfl, rfl⟩
  all_goals
    subst h
    try split
    all_goals exact ⟨rfl, rfl, rfl, rfl⟩

/-- Every port write that completes keeps the stores canonical. -/
theorem writePort_wf {port : Port} {a : Addr} {cart : Option Cartridge} {cfg : Config} {x : Byte} {u u' : Vtu}
    (h : writePort port a cart cfg x u = .next u')
    (hn : memWf ntSize u.nt) (hp : memWf palSize u.pal) (ho : memWf oamSize u.oam) :
    memWf ntSize u'.nt ∧ memWf palSize u'.pal ∧ memWf oamSize u'.oam := by
  cases port <;> simp only [writePort, writeControl, writeMask, writeOamAddress, writeOamData, writeScroll, writeAddress,
    writeData, vramWrite, Vtu.advance, Res.map_eq_next, Host.Outcome.next.injEq, reduceCtorEq] at h
  case data =>
    obtain ⟨w, hw, rfl⟩ := h
    split at hw
    · split at hw
      · cases hw
      · split at hw
        · cases hw; exact ⟨hn, hp, ho⟩
        · cases hw; exact ⟨memWrite_wf x (ntIndex_lt _ _ _) hn, hp, ho⟩
    · cases hw; exact ⟨hn, memWrite_wf x (palIndex_lt _) hp, ho⟩
  case oamData => subst h; exact ⟨hn, hp, memWrite_wf x u.oamAddr.isLt ho⟩
  all_goals
    subst h
    try split
    all_goals exact ⟨hn, hp, ho⟩

/-- One counting step changes only the counters and the status register, and that only in bit 7. -/
theorem Vtu.count_frame (u : Vtu) :
    u.count = { u with cycle := u.count.cycle, scanline := u.count.scanline, status := u.count.status } ∧
    (u.count.status = u.status ∨ ∃ on, u.count.status = withBit7 u.status on) := by
  unfold Vtu.count
  split_ifs <;> simp

/-- The four cases of one counting step. -/
theorem Vtu.count_cases (u : Vtu) :
    (u.cycle + 1 < 341 ∧ u.count = { u with cycle := u.cycle + 1 }) ∨
    (341 ≤ u.cycle + 1 ∧ 262 ≤ u.scanline + 1 ∧
      u.count = { u with cycle := 0, scanline := 0, status := withBit7 u.status false }) ∨
    (341 ≤ u.cycle + 1 ∧ u.scanline + 1 = 241 ∧
      u.count = { u with cycle := 0, scanline := u.scanline + 1, status := withBit7 u.status true }) ∨
    (341 ≤ u.cycle + 1 ∧ u.scanline + 1 < 262 ∧ u.scanline + 1 ≠ 241 ∧
      u.count = { u with cycle := 0, scanline := u.scanline + 1 }) := by
  by_cases h : u.cycle + 1 < cyclesPerLine
  · exact .inl ⟨h, by rw [Vtu.count, if_pos h]⟩
  · have hc : 341 ≤ u.cycle + 1 := Nat.le_of_not_lt h
    by_cases h' : linesPerFrame ≤ u.scanline + 1
    · exact .inr (.inl ⟨hc, h', by rw [Vtu.count, if_neg h, if_pos h']⟩)
    · have hl : u.scanline + 1 < 262 := Nat.lt_of_not_le h'
      by_cases h'' : u.scanline + 1 = vblankLine
      · exact .inr (.inr (.inl ⟨hc, h'', by rw [Vtu.count, if_neg h, if_neg h', if_pos h'']⟩))
      · exact .inr (.inr (.inr ⟨hc, hl, h'', by rw [Vtu.count, if_neg h, if_neg h', if_neg h'']⟩))

/-- One counting step keeps the counters in range. -/
theorem Vtu.count_range {u : Vtu} (hc : u.cycle ≤ 340) (hs : u.scanline ≤ 261) :
    u.count.cycle ≤ 340 ∧ u.count.scanline ≤ 261 := by
  rcases u.count_cases with ⟨h, e⟩ | ⟨-, -, e⟩ | ⟨-, h, e⟩ | ⟨-, h, -, e⟩ <;> rw [e] <;> refine ⟨?_, ?_⟩ <;>
    first | assumption | exact Nat.zero_le _ | exact Nat.le_of_lt_succ ‹_› | (show u.scanline + 1 ≤ 261; omega)

end Sys2Proof.Machine
end

