-- ==== Sys2Proof/Laws/Ops.lean ====
section
/-! SUPPORT. What the shared operations over memory and registers can do: the bus by region, the stack, interrupt entry and
return. -/

namespace Sys2Proof.Machine

/-! The bus by region. -/

theorem region_ram {a : Addr} (h : a.toNat < 0x2000) : region a = .ram (a.toNat % 0x800) := by
  simp [region, portBase, ramSize, h]

theorem region_port {a : Addr} (h : 0x2000 ≤ a.toNat) (h' : a.toNat < 0x4000) : region a = .port (portOf a) := by
  simp [region, portBase, xramBase, h', Nat.not_lt.mpr h]

theorem region_xram {a : Addr} (h : 0x4000 ≤ a.toNat) (h' : a.toNat < 0x8000) : region a = .xram (a.toNat - 0x4000) := by
  simp [region, portBase, xramBase, romBase, h', Nat.not_lt.mpr h, show ¬ a.toNat < 0x2000 by omega]

theorem region_rom {a : Addr} (h : 0x8000 ≤ a.toNat) : region a = .rom := by
  simp [region, portBase, xramBase, romBase, show ¬ a.toNat < 0x2000 by omega, show ¬ a.toNat < 0x4000 by omega,
    Nat.not_lt.mpr h]

theorem busRead_ram {a : Addr} (s : State) (h : a.toNat < 0x2000) :
    busRead a s = .next (memRead s.ram (a.toNat % 0x800), s) := by
  simp only [busRead, region_ram h]

theorem busRead_port {a : Addr} (s : State) (h : 0x2000 ≤ a.toNat) (h' : a.toNat < 0x4000) :
    busRead a s = (readPort (portOf a) s.cart s.config s.vtu).map fun r => (r.1, s.setVtu r.2) := by
  simp only [busRead, region_port h h']

theorem busRead_xram {a : Addr} (s : State) (h : 0x4000 ≤ a.toNat) (h' : a.toNat < 0x8000) :
    busRead a s = .next (memRead s.xram (a.toNat - 0x4000), s) := by
  simp only [busRead, region_xram h h']

theorem busRead_rom {a : Addr} {s : State} {c : Cartridge} (h : 0x8000 ≤ a.toNat) (hc : s.cart = some c) :
    busRead a s = .next (readPrg c a, s) := by
  simp only [busRead, region_rom h, hc]

theorem busRead_no_cart {a : Addr} {s : State} (h : 0x8000 ≤ a.toNat) (hc : s.cart = none) :
    busRead a s = .fault (.missingCartridge a.toNat) := by
  simp only [busRead, region_rom h, hc]

theorem busWrite_ram {a : Addr} (v : Byte) (s : State) (h : a.toNat < 0x2000) :
    busWrite a v s = .next (s.setRam (memWrite s.ram (a.toNat % 0x800) v)) := by
  simp only [busWrite, region_ram h]

theorem busWrite_port {a : Addr} (v : Byte) (s : State) (h : 0x2000 ≤ a.toNat) (h' : a.toNat < 0x4000) :
    busWrite a v s = (writePort (portOf a) a s.cart s.config v s.vtu).map s.setVtu := by
  simp only [busWrite, region_port h h']

theorem busWrite_xram {a : Addr} (v : Byte) (s : State) (h : 0x4000 ≤ a.toNat) (h' : a.toNat < 0x8000) :
    busWrite a v s = .next (s.setXram (memWrite s.xram (a.toNat - 0x4000) v)) := by
  simp only [busWrite, region_xram h h']

theorem busWrite_rom {a : Addr} {s : State} {c : Cartridge} (v : Byte) (h : 0x8000 ≤ a.toNat) (hc : s.cart = some c) :
    busWrite a v s = .next s := by
  simp only [busWrite, region_rom h, hc]

theorem busWrite_no_cart {a : Addr} {s : State} (v : Byte) (h : 0x8000 ≤ a.toNat) (hc : s.cart = none) :
    busWrite a v s = .fault (.missingCartridge a.toNat) := by
  simp only [busWrite, region_rom h, hc]

/-- A bus read neither sees nor changes the script of host calls. -/
theorem busRead_setHostCalls (a : Addr) (s : State) (calls : List (List Signal)) :
    busRead a (s.setHostCalls calls) = (busRead a s).map fun r => (r.1, r.2.setHostCalls calls) := by
  unfold busRead
  cases region a with
  | ram i => rfl
  | xram i => rfl
  | port p =>
    simp only [State.setHostCalls_cart, State.setHostCalls_config, State.setHostCalls_vtu]
    cases readPort p s.cart s.config s.vtu <;> rfl
  | rom =>
    simp only [State.setHostCalls_cart]
    cases s.cart <;> rfl

/-- The four regions of an address. -/
theorem region_cases (a : Addr) :
    a.toNat < 0x2000 ∨ (0x2000 ≤ a.toNat ∧ a.toNat < 0x4000) ∨ (0x4000 ≤ a.toNat ∧ a.toNat < 0x8000) ∨
    0x8000 ≤ a.toNat := by
  omega

/-- A bus read that completes changes only the VTU, and there what a port read changes. -/
theorem busRead_frame {a : Addr} {s t : State} {v : Byte} (h : busRead a s = .next (v, t)) :
    t = s.setVtu t.vtu ∧
    t.vtu = { s.vtu with status := t.vtu.status, w := t.vtu.w, rbuf := t.vtu.rbuf, v := t.vtu.v } ∧
    (t.vtu.status = s.vtu.status ∨ t.vtu.status = withBit7 s.vtu.status false) := by
  rcases region_cases a with hr | ⟨hr, hr'⟩ | ⟨hr, hr'⟩ | hr
  · rw [busRead_ram s hr] at h
    cases h; exact ⟨rfl, rfl, .inl rfl⟩
  · rw [busRead_port s hr hr', Res.map_eq_next] at h
    obtain ⟨⟨b, u⟩, hp, hh⟩ := h
    cases hh
    exact ⟨rfl, readPort_frame hp⟩
  · rw [busRead_xram s hr hr'] at h
    cases h; exact ⟨rfl, rfl, .inl rfl⟩
  · cases hc : s.cart with
    | none => rw [busRead_no_cart hr hc] at h; cases h
    | some c => rw [busRead_rom hr hc] at h; cases h; exact ⟨rfl, rfl, .inl rfl⟩

/-- A bus write that completes changes one byte of work RAM, one byte of plain RAM, the VTU through a port, or nothing. -/
theorem busWrite_cases {a : Addr} {v : Byte} {s t : State} (h : busWrite a v s = .next t) :
    (a.toNat < 0x2000 ∧ t = s.setRam (memWrite s.ram (a.toNat % 0x800) v)) ∨
    (0x2000 ≤ a.toNat ∧ a.toNat < 0x4000 ∧ ∃ u, writePort (portOf a) a s.cart s.config v s.vtu = .next u ∧ t = s.setVtu u) ∨
    (0x4000 ≤ a.toNat ∧ a.toNat < 0x8000 ∧ t = s.setXram (memWrite s.xram (a.toNat - 0x4000) v)) ∨
    (0x8000 ≤ a.toNat ∧ t = s) := by
  rcases region_cases a with hr | ⟨hr, hr'⟩ | ⟨hr, hr'⟩ | hr
  · rw [busWrite_ram v s hr] at h
    cases h; exact .inl ⟨hr, rfl⟩
  · rw [busWrite_port v s hr hr', Res.map_eq_next] at h
    obtain ⟨u, hp, rfl⟩ := h
    exact .inr (.inl ⟨hr, hr', u, hp, rfl⟩)
  · rw [busWrite_xram v s hr hr'] at h
    cases h; exact .inr (.inr (.inl ⟨hr, hr', rfl⟩))
  · cases hc : s.cart with
    | none => rw [busWrite_no_cart v hr hc] at h; cases h
    | some c => rw [busWrite_rom v hr hc] at h; cases h; exact .inr (.inr (.inr ⟨hr, rfl⟩))

/-! Bus access sees only the memories, the VTU, the cartridge and the configuration. -/

theorem busRead_setScratch (a : Addr) (s : State) (k : Scratch) :
    busRead a (s.setScratch k) = (busRead a s).map fun r => (r.1, r.2.setScratch k) := by
  simp only [busRead, State.setScratch_ram, State.setScratch_cart, State.setScratch_config, State.setScratch_vtu,
    State.setScratch_xram]
  split
  · rfl
  · rw [Res.map_map]; rfl
  · rfl
  · split <;> rfl

theorem busRead_setP (a : Addr) (s : State) (p : Status) :
    busRead a (s.setP p) = (busRead a s).map fun r => (r.1, r.2.setP p) := by
  simp only [busRead, State.setP_ram, State.setP_cart, State.setP_config, State.setP_vtu, State.setP_xram]
  split
  · rfl
  · rw [Res.map_map]; rfl
  · rfl
  · split <;> rfl

theorem busWrite_setScratch (a : Addr) (v : Byte) (s : State) (k : Scratch) :
    busWrite a v (s.setScratch k) = (busWrite a v s).map fun t => t.setScratch k := by
  simp only [busWrite, State.setScratch_ram, State.setScratch_cart, State.setScratch_config, State.setScratch_vtu,
    State.setScratch_xram]
  split
  · rfl
  · rw [Res.map_map]; rfl
  · rfl
  · split <;> rfl

theorem busWrite_setP (a : Addr) (v : Byte) (s : State) (p : Status) :
    busWrite a v (s.setP p) = (busWrite a v s).map fun t => t.setP p := by
  simp only [busWrite, State.setP_ram, State.setP_cart, State.setP_config, State.setP_vtu, State.setP_xram]
  split
  · rfl
  · rw [Res.map_map]; rfl
  · rfl
  · split <;> rfl

/-! The stack. -/

theorem stackAddr_toNat (sp : Byte) : (stackAddr sp).toNat = 0x100 + sp.toNat := by
  have h := sp.isLt
  simp only [stackAddr, stackBase, BitVec.toNat_add, zext16_toNat, BitVec.toNat_ofNat]
  omega

theorem stackAddr_index (sp : Byte) : (stackAddr sp).toNat % 0x800 = 0x100 + sp.toNat := by
  have h := sp.isLt
  rw [stackAddr_toNat]
  omega

theorem stackAddr_lt (sp : Byte) : (stackAddr sp).toNat < 0x2000 := by
  have h := sp.isLt
  rw [stackAddr_toNat]
  omega

/-- `Push` never stops: it stores in page one of work RAM and decrements `SP`. -/
theorem push_eq (v : Byte) (s : State) :
    push v s = .next ((s.setRam (memWrite s.ram (0x100 + s.sp.toNat) v)).setSp (s.sp - 1#8)) := by
  rw [push, busWrite_ram v s (stackAddr_lt s.sp), stackAddr_index]
  rfl

/-- `Pull` never stops: it increments `SP` and answers the byte of work RAM it then points at. -/
theorem pull_eq (s : State) :
    pull s = .next (memRead s.ram (0x100 + (s.sp + 1#8).toNat), s.setSp (s.sp + 1#8)) := by
  rw [pull, busRead_ram _ (stackAddr_lt _), stackAddr_index]
  rfl

theorem pushWord_eq (w : Addr) (s : State) :
    pushWord w s = .next ((s.setRam (memWrite (memWrite s.ram (0x100 + s.sp.toNat) (hiByte w))
      (0x100 + (s.sp - 1#8).toNat) (loByte w))).setSp (s.sp - 2#8)) := by
  simp only [pushWord, push_eq, Res.andThen_next, State.setSp_ram, State.setRam_ram, State.setSp_sp]
  rw [show s.sp - 1#8 - 1#8 = s.sp - 2#8 by bv_omega]
  rfl

theorem pullWord_eq (s : State) :
    pullWord s = .next (join (memRead s.ram (0x100 + (s.sp + 2#8).toNat)) (memRead s.ram (0x100 + (s.sp + 1#8).toNat)),
      s.setSp (s.sp + 2#8)) := by
  simp only [pullWord, pull_eq, Res.andThen_next, Res.map_next, State.setSp_ram, State.setSp_sp]
  rw [show s.sp + 1#8 + 1#8 = s.sp + 2#8 by bv_omega]
  rfl

/-- A word read inside the ROM window. -/
theorem read16_rom {a : Addr} {s : State} {c : Cartridge} (h : 0x8000 ≤ a.toNat) (h' : a.toNat < 0xFFFF)
    (hc : s.cart = some c) : read16 a s = .next (join (readPrg c (a + 1#16)) (readPrg c a), s) := by
  have : 0x8000 ≤ (a + 1#16).toNat := by rw [BitVec.toNat_add]; simp; omega
  simp only [read16, readPair, busRead_rom h hc, busRead_rom this hc, Res.andThen_next, Res.map_next]

theorem read16_no_cart {a : Addr} {s : State} (h : 0x8000 ≤ a.toNat) (hc : s.cart = none) :
    read16 a s = .fault (.missingCartridge a.toNat) := by
  simp only [read16, readPair, busRead_no_cart h hc, Res.andThen_fault]

/-! Interrupt entry and return. -/

/-- The entry, through a vector of the ROM window, with a cartridge. -/
theorem enterInterrupt_eq {ret vector : Addr} {brk : Bool} {s : State} {c : Cartridge} (h : 0x8000 ≤ vector.toNat)
    (h' : vector.toNat < 0xFFFF) (hc : s.cart = some c) :
    enterInterrupt ret brk vector s = .next { s with
      pc := join (readPrg c (vector + 1#16)) (readPrg c vector), sp := s.sp - 3#8, p := { s.p with i := true }
      ram := memWrite (memWrite (memWrite s.ram (0x100 + s.sp.toNat) (hiByte ret))
        (0x100 + (s.sp - 1#8).toNat) (loByte ret)) (0x100 + (s.sp - 2#8).toNat) (packP brk s.p) } := by
  simp only [enterInterrupt, pushWord_eq, push_eq, Res.andThen_next]
  rw [read16_rom h h' (c := c) (by simpa using hc), Res.map_next]
  simp only [State.setPc, State.setP, State.setSp, State.setRam]
  rw [show s.sp - 2#8 - 1#8 = s.sp - 3#8 by bv_omega]

theorem enterInterrupt_no_cart {ret vector : Addr} {brk : Bool} {s : State} (h : 0x8000 ≤ vector.toNat)
    (hc : s.cart = none) : enterInterrupt ret brk vector s = .fault (.missingCartridge vector.toNat) := by
  simp only [enterInterrupt, pushWord_eq, push_eq, Res.andThen_next]
  rw [read16_no_cart h (by simpa using hc), Res.map_fault]

theorem returnFromInterrupt_eq (s : State) :
    returnFromInterrupt s = .next { s with
      sp := s.sp + 3#8, p := unpackP (memRead s.ram (0x100 + (s.sp + 1#8).toNat))
      pc := join (memRead s.ram (0x100 + (s.sp + 3#8).toNat)) (memRead s.ram (0x100 + (s.sp + 2#8).toNat)) } := by
  simp only [returnFromInterrupt, pull_eq, pullWord_eq, Res.andThen_next, Res.map_next, State.setP_ram, State.setP_sp,
    State.setSp_ram, State.setSp_sp]
  rw [show s.sp + 1#8 + 2#8 = s.sp + 3#8 by bv_omega, show s.sp + 1#8 + 1#8 = s.sp + 2#8 by bv_omega]
  rfl

end Sys2Proof.Machine
end

