-- ==== Sys2Proof/Laws/Operands.lean ====
section
/-! SUPPORT. What the addressing modes and the instruction shapes can do. -/

namespace Sys2Proof.Machine

/-! The modes with an operand: none of them stops, each changes only the scratch. -/

/-- A pointer in page zero is read from work RAM, its second byte inside page zero. -/
theorem zeroPagePointer_eq (p : Byte) (s : State) :
    zeroPagePointer p s = .next (join (memRead s.ram (p + 1#8).toNat) (memRead s.ram p.toNat), s) := by
  have small : ∀ b : Byte, (zext16 b).toNat < 0x2000 := fun b => by have := b.isLt; rw [zext16_toNat]; omega
  have index : ∀ b : Byte, b.toNat % 0x800 = b.toNat := fun b => by have := b.isLt; omega
  simp only [zeroPagePointer, readPair, busRead_ram _ (small _), Res.andThen_next, Res.map_next, zext16_toNat, index]

theorem indexedIndirect_eq (zp : Byte) (s : State) :
    indexedIndirect zp s =
      .next (setEa (join (memRead s.ram (zp + s.x + 1#8).toNat) (memRead s.ram (zp + s.x).toNat)) s) := by
  simp only [indexedIndirect, zeroPagePointer_eq, Res.map_next]

theorem indirectIndexed_eq (zp : Byte) (s : State) :
    indirectIndexed zp s =
      .next (setIndexed (join (memRead s.ram (zp + 1#8).toNat) (memRead s.ram zp.toNat)) s.y s) := by
  simp only [indirectIndexed, zeroPagePointer_eq, Res.map_next]

/-! The shapes. -/

/-- A reading form: one bus read at `EA` in the state before it. -/
theorem withOperand_eq {mode : State → Res State} {effect : State → State} {s : State} {k : Scratch}
    (h : mode s = .next (s.setScratch k)) :
    withOperand mode effect s = (busRead k.ea s).map fun r => effect (r.2.setScratch { k with m := r.1 }) := by
  rw [withOperand, h, Res.andThen_next, loadOperand, State.setScratch_scratch, busRead_setScratch, Res.map_map,
    Res.map_map]
  rfl

/-- A storing form: one bus write at `EA` in the state before it. -/
theorem storeRegister_eq {mode : State → Res State} {reg : State → Byte} {s : State} {k : Scratch}
    (h : mode s = .next (s.setScratch k)) :
    storeRegister mode reg s = (busWrite k.ea (reg (s.setScratch k)) s).map fun t => t.setScratch k := by
  rw [storeRegister, h, Res.andThen_next, State.setScratch_scratch, busWrite_setScratch]

/-- A read-modify-write form: one bus read and then one bus write at the same `EA`. -/
theorem modifyMemory_eq {mode : State → Res State} {op : Byte → Status → Byte × Status} {s : State} {k : Scratch}
    (h : mode s = .next (s.setScratch k)) :
    modifyMemory mode op s = (busRead k.ea s).andThen fun r =>
      (busWrite k.ea (op r.1 s.p).1 r.2).map fun t =>
        (t.setScratch { k with m := r.1 }).setP (op r.1 s.p).2 := by
  rw [modifyMemory, h, Res.andThen_next, loadOperand, State.setScratch_scratch, busRead_setScratch, Res.map_map]
  cases hr : busRead k.ea s with
  | next r =>
    obtain ⟨v, r⟩ := r
    have hp : r.p = s.p := by rw [(busRead_frame hr).1]; rfl
    simp only [Res.map_next, Res.andThen_next, Function.comp, setM, State.setScratch_scratch, State.setScratch_p, hp]
    rw [busWrite_setP]
    show Res.map (busWrite k.ea (op v s.p).1 (r.setScratch { k with m := v })) _ = _
    rw [busWrite_setScratch, Res.map_map]
    rfl
  | fault e => rfl
  | refused e => rfl

end Sys2Proof.Machine
end

