-- ==== Sys2Proof/Laws/Bridge.lean ====
section
/-! SUPPORT. The machine's operations in the terms of Safety.lean: results and flags as exact arithmetic, effective addresses,
pages, stored bytes, vectors and folds. -/

namespace Sys2Proof.Machine

open Sys2Proof.Safety

/-! Flags and results. -/

theorem setZN_eq_withZN (v : Byte) (p : Status) : setZN v p = withZN p v := setZN_eq v p

theorem compareFlags_eq (reg m : Byte) (p : Status) : compareFlags reg m p = compareResult p reg m := by
  simp only [compareFlags, compareResult, setZN_eq_withZN, withZN]

theorem shiftLeft_eq (v : Byte) (p : Status) : shiftLeft v p = (aslResult v p, aslFlags v p) := by
  have h : v <<< 1 = BitVec.ofNat 8 (2 * v.toNat) := by revert v; decide
  simp only [shiftLeft, aslResult, aslFlags, plainResult, setZN_eq_withZN, h, bit_seven]

theorem bit_zero (v : Byte) : bit v 0 = decide (v.toNat % 2 = 1) := by
  revert v; decide

theorem shiftRight_eq (v : Byte) (p : Status) : shiftRight v p = (lsrResult v p, lsrFlags v p) := by
  have h : v >>> 1 = BitVec.ofNat 8 (v.toNat / 2) := by revert v; decide
  simp only [shiftRight, lsrResult, lsrFlags, plainResult, setZN_eq_withZN, h, bit_zero]

theorem rotateLeft_eq (v : Byte) (p : Status) : rotateLeft v p = (rolResult v p, rolFlags v p) := by
  have h : ∀ (v : Byte) (c : Bool), v.extractLsb' 0 7 ++ BitVec.ofBool c = BitVec.ofNat 8 (2 * v.toNat + c.toNat) := by
    decide
  simp only [rotateLeft, rolResult, rolFlags, plainResult, setZN_eq_withZN, h, bit_seven]

theorem rotateRight_eq (v : Byte) (p : Status) : rotateRight v p = (rorResult v p, rorFlags v p) := by
  have h : ∀ (v : Byte) (c : Bool), BitVec.ofBool c ++ v.extractLsb' 1 7 = BitVec.ofNat 8 (v.toNat / 2 + 0x80 * c.toNat) := by
    decide
  simp only [rotateRight, rorResult, rorFlags, plainResult, setZN_eq_withZN, h, bit_zero]

theorem increment_eq (v : Byte) (p : Status) : increment v p = (incResult v p, withZN p (incResult v p)) := by
  have h : v + 1#8 = BitVec.ofNat 8 (v.toNat + 1) := by revert v; decide
  simp only [increment, incResult, plainResult, setZN_eq_withZN, h]

theorem decrement_eq (v : Byte) (p : Status) : decrement v p = (decResult v p, withZN p (decResult v p)) := by
  have h : v - 1#8 = BitVec.ofNat 8 (v.toNat + 0xFF) := by revert v; decide
  simp only [decrement, decResult, plainResult, setZN_eq_withZN, h]

/-- ADC in exact arithmetic. -/
theorem addCarry_eq (a m : Byte) (p : Status) :
    addCarry a m p = (BitVec.ofNat 8 (a.toNat + m.toNat + p.c.toNat),
      { withZN p (BitVec.ofNat 8 (a.toNat + m.toNat + p.c.toNat)) with
        c := decide (0x100 ≤ a.toNat + m.toNat + p.c.toNat)
        v := decide (a.getLsbD 7 = m.getLsbD 7 ∧
          (BitVec.ofNat 8 (a.toNat + m.toNat + p.c.toNat)).getLsbD 7 ≠ a.getLsbD 7) }) := by
  have hs := addCarry_sum a m p.c
  have hr : BitVec.extractLsb' 0 8 (a.zeroExtend 9 + m.zeroExtend 9 + (BitVec.ofBool p.c).zeroExtend 9 : BitVec 9) =
      BitVec.ofNat 8 (a.toNat + m.toNat + p.c.toNat) := by
    apply BitVec.eq_of_toNat_eq
    rw [BitVec.extractLsb'_toNat, hs]; simp
  have hc : (a.zeroExtend 9 + m.zeroExtend 9 + (BitVec.ofBool p.c).zeroExtend 9 : BitVec 9).getLsbD 8 =
      decide (0x100 ≤ a.toNat + m.toNat + p.c.toNat) := by
    rw [BitVec.getLsbD, hs, Nat.testBit, Nat.shiftRight_eq_div_pow]
    have := a.isLt; have := m.isLt; have := Bool.toNat_lt p.c
    by_cases h : 256 ≤ a.toNat + m.toNat + p.c.toNat
    · simp [h, show (a.toNat + m.toNat + p.c.toNat) / 256 = 1 by omega]
    · simp [h, show (a.toNat + m.toNat + p.c.toNat) / 256 = 0 by omega]
  simp only [addCarry, setZN_eq_withZN, withZN]
  rw [hr, hc]
  generalize BitVec.ofNat 8 (a.toNat + m.toNat + p.c.toNat) = r
  congr 2
  simp only [bit, BitVec.getLsbD_and, BitVec.getLsbD_xor]
  cases a.getLsbD 7 <;> cases m.getLsbD 7 <;> cases r.getLsbD 7 <;> rfl

/-- SBC in exact arithmetic. -/
theorem subCarry_eq (a m : Byte) (p : Status) :
    subCarry a m p = (BitVec.ofInt 8 ((a.toNat : Int) - m.toNat - ((1 - p.c.toNat : Nat) : Int)),
      { withZN p (BitVec.ofInt 8 ((a.toNat : Int) - m.toNat - ((1 - p.c.toNat : Nat) : Int))) with
        c := decide (m.toNat + (1 - p.c.toNat) ≤ a.toNat)
        v := decide (a.getLsbD 7 ≠ m.getLsbD 7 ∧
          (BitVec.ofInt 8 ((a.toNat : Int) - m.toNat - ((1 - p.c.toNat : Nat) : Int))).getLsbD 7 ≠ a.getLsbD 7) }) := by
  have ha := a.isLt
  have hm := m.isLt
  have hx : (m ^^^ 0xFF#8).toNat = 255 - m.toNat := by revert m; decide
  have hl : (m ^^^ 0xFF#8).getLsbD 7 = !m.getLsbD 7 := by clear hx; revert m; decide
  have hr : BitVec.ofNat 8 (a.toNat + (m ^^^ 0xFF#8).toNat + p.c.toNat) =
      BitVec.ofInt 8 ((a.toNat : Int) - m.toNat - ((1 - p.c.toNat : Nat) : Int)) := by
    rw [hx]
    apply BitVec.eq_of_toNat_eq
    rw [BitVec.toNat_ofNat, BitVec.toNat_ofInt]
    cases p.c <;> simp <;> omega
  rw [subCarry, addCarry_eq, hr]
  simp only [withZN]
  congr 2
  · rw [hl, decide_eq_decide]
    cases a.getLsbD 7 <;> cases m.getLsbD 7 <;> simp
  · rw [hx]; cases p.c <;> simp <;> omega

/-! The status byte. -/

theorem packP_eq_statusByte (brk : Bool) (p : Status) : packP brk p = statusByte brk p := by
  obtain ⟨n, v, u, b, d, i, z, c⟩ := p
  revert brk n v u b d i z c
  decide

theorem unpackP_eq_statusOf (v : Byte) : unpackP v = statusOf v := by
  have h7 : ∀ v : Byte, v.getLsbD 7 = decide (v.toNat / 128 % 2 = 1) := by decide
  have h6 : ∀ v : Byte, v.getLsbD 6 = decide (v.toNat / 64 % 2 = 1) := by decide
  have h3 : ∀ v : Byte, v.getLsbD 3 = decide (v.toNat / 8 % 2 = 1) := by decide
  have h2 : ∀ v : Byte, v.getLsbD 2 = decide (v.toNat / 4 % 2 = 1) := by decide
  have h1 : ∀ v : Byte, v.getLsbD 1 = decide (v.toNat / 2 % 2 = 1) := by decide
  have h0 : ∀ v : Byte, v.getLsbD 0 = decide (v.toNat % 2 = 1) := by decide
  simp only [unpackP, statusOf, bit, h7, h6, h3, h2, h1, h0]

/-! Addresses. -/

theorem page_ne_iff (a b : Addr) : decide (hiByte a ≠ hiByte b) = decide (page a ≠ page b) := by
  rw [decide_eq_decide, not_iff_not, hiByte_eq_iff]; rfl

theorem vramAddr_eq_portVramAddr (s : State) : (vramAddr s.vtu.v).toNat = portVramAddr s := vramAddr_toNat _

theorem portOf_eq_status_iff {a : Addr} : portOf a = .status ↔ a.toNat % 8 = 2 := by
  have h : a.toNat % 8 < 8 := Nat.mod_lt _ (by decide)
  unfold portOf
  generalize a.toNat % 8 = n at *
  match n, h with
  | 0, _ | 1, _ | 2, _ | 3, _ | 4, _ | 5, _ | 6, _ | 7, _ => simp

theorem portOf_eq_data_iff {a : Addr} : portOf a = .data ↔ a.toNat % 8 = 7 := by
  have h : a.toNat % 8 < 8 := Nat.mod_lt _ (by decide)
  unfold portOf
  generalize a.toNat % 8 = n at *
  match n, h with
  | 0, _ | 1, _ | 2, _ | 3, _ | 4, _ | 5, _ | 6, _ | 7, _ => simp

/-- A stored byte is what a bus read answers, without a side effect. -/
theorem busRead_of_byteAt {s : State} {a : Addr} {b : Byte} (h : byteAt s a = some b) : busRead a s = .next (b, s) := by
  unfold byteAt at h
  rcases region_cases a with hr | ⟨hr, hr'⟩ | ⟨hr, hr'⟩ | hr
  · rw [if_pos hr] at h; cases h; rw [busRead_ram s hr]
  · rw [if_neg (by omega), if_pos hr'] at h; cases h
  · rw [if_neg (by omega), if_neg (by omega), if_pos hr'] at h; cases h; rw [busRead_xram s hr hr']
  · rw [if_neg (by omega), if_neg (by omega), if_neg (by omega)] at h
    cases hc : s.cart with
    | none => rw [hc] at h; cases h
    | some c =>
      rw [hc] at h
      simp only at h
      rw [busRead_rom hr hc]
      simp only [readPrg, prgIndex, romBase, prgBankSize]
      cases hb : c.prgBanks <;> rw [hb] at h <;> simp only [Option.some.injEq] at h <;> simp only [h]

/-- The vector word behind a vector address. -/
theorem vector_eq_vectorWord {c : Cartridge} {v : Addr} {k : Nat} (h : v.toNat = 0x10000 - k) (hk : 2 ≤ k) (hk' : k ≤ 6) :
    join (readPrg c (v + 1#16)) (readPrg c v) = vectorWord c k := by
  have h1 : (v + 1#16).toNat = 0x10000 - k + 1 := by rw [BitVec.toNat_add, h]; simp; omega
  simp only [readPrg, prgIndex, vectorWord, h1, h, join, romBase, prgBankSize]
  cases c.prgBanks
  · simp only
    rw [show (0x10000 - k + 1 - 0x8000) % 0x4000 = 0x4000 - k + 1 by omega,
      show (0x10000 - k - 0x8000) % 0x4000 = 0x4000 - k by omega]
  · simp only
    rw [show (0x10000 - k + 1 - 0x8000) = 0x8000 - k + 1 by omega, show (0x10000 - k - 0x8000) = 0x8000 - k by omega]

/-- The three pushes of an interrupt entry. -/
theorem interruptFrame_eq (ram : Memory) (sp : Byte) (ret : Addr) (status : Byte) :
    interruptFrame ram sp ret status = memWrite (memWrite (memWrite ram (0x100 + sp.toNat) (hiByte ret))
      (0x100 + (sp - 1#8).toNat) (loByte ret)) (0x100 + (sp - 2#8).toNat) status := by
  rw [hiByte_eq_ofNat, loByte_eq_ofNat]; rfl

/-! The VTU. -/

theorem ntIndex_eq_nametableByte (fold : NtFold) (mirroring : Mirroring) (a : VAddr) :
    ntIndex fold mirroring a = nametableByte fold mirroring a.toNat := by
  have h0 : (a.extractLsb' 0 10).toNat = a.toNat % 0x400 := by simp [BitVec.extractLsb'_toNat]
  have b1 : (a.extractLsb' 10 2).getLsbD 1 = decide (a.toNat / 0x800 % 2 = 1) := by
    rw [BitVec.getLsbD_extractLsb']
    simp [BitVec.getLsbD, Nat.testBit, Nat.shiftRight_eq_div_pow]; rfl
  have b0 : (a.extractLsb' 10 2).getLsbD 0 = decide (a.toNat / 0x400 % 2 = 1) := by
    rw [BitVec.getLsbD_extractLsb']
    simp [BitVec.getLsbD, Nat.testBit, Nat.shiftRight_eq_div_pow]; rfl
  simp only [ntIndex, nametableByte, ntHalf, h0]
  cases fold <;> cases mirroring <;> simp only [b1, b0, decide_eq_true_eq] <;> congr 2 <;> split <;> omega

theorem palIndex_eq_paletteByte (a : VAddr) : palIndex a = paletteByte a.toNat := rfl

/-- The advance of `v` as a number. -/
theorem vramStep_add (u : Vtu) :
    u.v + vramStep u.ctrl = BitVec.ofNat 15 (u.v.toNat + if u.ctrl.getLsbD 2 = true then 32 else 1) := by
  apply BitVec.eq_of_toNat_eq
  rw [BitVec.toNat_add, BitVec.toNat_ofNat, vramStep]
  cases h : bit u.ctrl 2
  · rw [if_neg (by simp), if_neg (by rw [show u.ctrl.getLsbD 2 = false from h]; simp)]; rfl
  · rw [if_pos rfl, if_pos (show u.ctrl.getLsbD 2 = true from h)]; rfl

/-! The effective address and the page-crossed flag each mode leaves, as Safety.lean states them. -/

/-- A mode leaves `ea` and `crossed` in the scratch and changes nothing else. -/
abbrev LeavesEa (mode : State → Res State) (s : State) (ea : Addr) (crossed : Bool) : Prop :=
  ∃ k, mode s = .next (s.setScratch k) ∧ FetchedTo s ea crossed k ∧ k.m = s.scratch.m

theorem zeroPage_leaves (s : State) (z : Byte) : LeavesEa (zeroPage z) s (zp.ea s z) (zp.crossed s z) :=
  ⟨_, rfl, ⟨rfl, by simp [zp], rfl, rfl, rfl⟩, rfl⟩
theorem zeroPageX_leaves (s : State) (z : Byte) : LeavesEa (zeroPageX z) s (zpx.ea s z) (zpx.crossed s z) :=
  ⟨_, rfl, ⟨rfl, by simp [zpx], rfl, rfl, rfl⟩, rfl⟩
theorem zeroPageY_leaves (s : State) (z : Byte) : LeavesEa (zeroPageY z) s (zpy.ea s z) (zpy.crossed s z) :=
  ⟨_, rfl, ⟨rfl, by simp [zpy], rfl, rfl, rfl⟩, rfl⟩
theorem absolute_leaves (s : State) (w : Addr) : LeavesEa (absolute w) s (Safety.abs.ea s w) (Safety.abs.crossed s w) :=
  ⟨_, rfl, ⟨rfl, by simp [Safety.abs], rfl, rfl, rfl⟩, rfl⟩
theorem absoluteX_leaves (s : State) (w : Addr) : LeavesEa (absoluteX w) s (abx.ea s w) (abx.crossed s w) :=
  ⟨_, rfl, ⟨rfl, by simp only [abx, ← page_ne_iff]; rfl, rfl, rfl, rfl⟩, rfl⟩
theorem absoluteY_leaves (s : State) (w : Addr) : LeavesEa (absoluteY w) s (aby.ea s w) (aby.crossed s w) :=
  ⟨_, rfl, ⟨rfl, by simp only [aby, ← page_ne_iff]; rfl, rfl, rfl, rfl⟩, rfl⟩
theorem indexedIndirect_leaves (s : State) (z : Byte) :
    LeavesEa (indexedIndirect z) s (izx.ea s z) (izx.crossed s z) := by
  rw [LeavesEa, indexedIndirect_eq]
  exact ⟨_, rfl, ⟨rfl, by simp [izx], rfl, rfl, rfl⟩, rfl⟩
theorem indirectIndexed_leaves (s : State) (z : Byte) :
    LeavesEa (indirectIndexed z) s (izy.ea s z) (izy.crossed s z) := by
  rw [LeavesEa, indirectIndexed_eq]
  exact ⟨_, rfl, ⟨rfl, by simp only [izy, ← page_ne_iff]; rfl, rfl, rfl, rfl⟩, rfl⟩

end Sys2Proof.Machine
end

