-- ==== Sys2Proof/Laws/Frame.lean ====
section
/-! SUPPORT. What an instruction, a signal, a tick and a step can change at most: `Keeps` is the frame that all of them share,
proved once per shared operation. -/

namespace Sys2Proof.Machine

/-- All stores are canonical and within their sizes (10_state.md R46). -/
structure StoresWf (s : State) : Prop where
  ram : memWf ramSize s.ram
  xram : memWf xramSize s.xram
  nt : memWf ntSize s.vtu.nt
  pal : memWf palSize s.vtu.pal
  oam : memWf oamSize s.vtu.oam

/-- What no operation of the processor changes, and what every one of them keeps. -/
structure Keeps (s t : State) : Prop where
  fault : t.fault = s.fault
  cart : t.cart = s.cart
  config : t.config = s.config
  hostCalls : t.hostCalls = s.hostCalls
  cycle : t.vtu.cycle = s.vtu.cycle
  scanline : t.vtu.scanline = s.vtu.scanline
  status : t.vtu.status = s.vtu.status ∨ t.vtu.status = withBit7 s.vtu.status false
  unused : s.p.u = true → t.p.u = true
  break_ : s.p.b = false → t.p.b = false
  stores : StoresWf s → StoresWf t

theorem Keeps.refl (s : State) : Keeps s s := ⟨rfl, rfl, rfl, rfl, rfl, rfl, .inl rfl, id, id, id⟩

theorem Keeps.trans {s t u : State} (h : Keeps s t) (h' : Keeps t u) : Keeps s u where
  fault := h'.fault.trans h.fault
  cart := h'.cart.trans h.cart
  config := h'.config.trans h.config
  hostCalls := h'.hostCalls.trans h.hostCalls
  cycle := h'.cycle.trans h.cycle
  scanline := h'.scanline.trans h.scanline
  status := by
    have idem : ∀ b : Byte, withBit7 (withBit7 b false) false = withBit7 b false := by decide
    rcases h'.status with e | e <;> rcases h.status with e' | e' <;> rw [e, e'] <;> simp [idem]
  unused := fun hu => h'.unused (h.unused hu)
  break_ := fun hb => h'.break_ (h.break_ hb)
  stores := fun hw => h'.stores (h.stores hw)

/-- An update of processor registers alone, with the normal form of U and B kept. -/
theorem Keeps.registers {s t : State} (h : t = { s with
      pc := t.pc, a := t.a, x := t.x, y := t.y, sp := t.sp, p := t.p, cyc := t.cyc, scratch := t.scratch })
    (hu : s.p.u = true → t.p.u = true) (hb : s.p.b = false → t.p.b = false) : Keeps s t := by
  rw [h]
  exact ⟨rfl, rfl, rfl, rfl, rfl, rfl, .inl rfl, hu, hb, fun hw => ⟨hw.ram, hw.xram, hw.nt, hw.pal, hw.oam⟩⟩

theorem busRead_keeps {a : Addr} {s t : State} {v : Byte} (h : busRead a s = .next (v, t)) : Keeps s t := by
  obtain ⟨e, e', hs⟩ := busRead_frame h
  have hf : ∀ q : State → Prop, q (s.setVtu t.vtu) → q t := fun q hq => e ▸ hq
  refine ⟨?_, ?_, ?_, ?_, ?_, ?_, hs, ?_, ?_, ?_⟩
  · rw [e]; rfl
  · rw [e]; rfl
  · rw [e]; rfl
  · rw [e]; rfl
  · rw [e']
  · rw [e']
  · rw [e]; exact id
  · rw [e]; exact id
  · intro hw
    refine ⟨?_, ?_, ?_, ?_, ?_⟩
    · rw [e]; exact hw.ram
    · rw [e]; exact hw.xram
    · rw [e']; exact hw.nt
    · rw [e']; exact hw.pal
    · rw [e']; exact hw.oam

theorem busWrite_keeps {a : Addr} {s t : State} {v : Byte} (h : busWrite a v s = .next t) : Keeps s t := by
  rcases busWrite_cases h with ⟨-, rfl⟩ | ⟨-, -, u, hu, rfl⟩ | ⟨hl, hl', rfl⟩ | ⟨-, rfl⟩
  · exact ⟨rfl, rfl, rfl, rfl, rfl, rfl, .inl rfl, id, id,
      fun hw => ⟨memWrite_wf v (Nat.mod_lt _ (by decide)) hw.ram, hw.xram, hw.nt, hw.pal, hw.oam⟩⟩
  · obtain ⟨h1, h2, h3, -⟩ := writePort_frame hu
    exact ⟨rfl, rfl, rfl, rfl, h1, h2, .inl h3, id, id, fun hw =>
      have k := writePort_wf hu hw.nt hw.pal hw.oam
      ⟨hw.ram, hw.xram, k.1, k.2.1, k.2.2⟩⟩
  · exact ⟨rfl, rfl, rfl, rfl, rfl, rfl, .inl rfl, id, id,
      fun hw => ⟨hw.ram, memWrite_wf v (by simp only [xramSize]; omega) hw.xram, hw.nt, hw.pal, hw.oam⟩⟩
  · exact Keeps.refl _

/-! The shapes, inverted: what a completed instruction of each shape did. -/

/-- A mode that does not stop and changes the scratch alone. -/
abbrev ScratchOnly (mode : State → Res State) : Prop := ∀ s, ∃ k, mode s = .next (s.setScratch k)

theorem zeroPage_scratchOnly (zp : Byte) : ScratchOnly (zeroPage zp) := fun _ => ⟨_, rfl⟩
theorem zeroPageX_scratchOnly (zp : Byte) : ScratchOnly (zeroPageX zp) := fun _ => ⟨_, rfl⟩
theorem zeroPageY_scratchOnly (zp : Byte) : ScratchOnly (zeroPageY zp) := fun _ => ⟨_, rfl⟩
theorem absolute_scratchOnly (addr : Addr) : ScratchOnly (absolute addr) := fun _ => ⟨_, rfl⟩
theorem absoluteX_scratchOnly (addr : Addr) : ScratchOnly (absoluteX addr) := fun _ => ⟨_, rfl⟩
theorem absoluteY_scratchOnly (addr : Addr) : ScratchOnly (absoluteY addr) := fun _ => ⟨_, rfl⟩
theorem indexedIndirect_scratchOnly (zp : Byte) : ScratchOnly (indexedIndirect zp) :=
  fun s => ⟨_, indexedIndirect_eq zp s⟩
theorem indirectIndexed_scratchOnly (zp : Byte) : ScratchOnly (indirectIndexed zp) :=
  fun s => ⟨_, indirectIndexed_eq zp s⟩

/-- A completed reading form: a bus read, then its effect. -/
theorem withOperand_cases {mode : State → Res State} {effect : State → State} {s t : State} (hm : ScratchOnly mode)
    (h : withOperand mode effect s = .next t) :
    ∃ ea v r k, busRead ea s = .next (v, r) ∧ k.m = v ∧ t = effect (r.setScratch k) := by
  obtain ⟨k, hk⟩ := hm s
  rw [withOperand_eq hk, Res.map_eq_next] at h
  obtain ⟨⟨v, r⟩, hr, rfl⟩ := h
  exact ⟨k.ea, v, r, _, hr, rfl, rfl⟩

/-- A completed storing form: a bus write. -/
theorem storeRegister_cases {mode : State → Res State} {reg : State → Byte} {s t : State} (hm : ScratchOnly mode)
    (h : storeRegister mode reg s = .next t) :
    ∃ ea v u k, busWrite ea v s = .next u ∧ t = u.setScratch k := by
  obtain ⟨k, hk⟩ := hm s
  rw [storeRegister_eq hk, Res.map_eq_next] at h
  obtain ⟨u, hu, rfl⟩ := h
  exact ⟨k.ea, _, u, k, hu, rfl⟩

/-- A completed read-modify-write form: a bus read, a bus write, the flags. -/
theorem modifyMemory_cases {mode : State → Res State} {op : Byte → Status → Byte × Status} {s t : State}
    (hm : ScratchOnly mode) (h : modifyMemory mode op s = .next t) :
    ∃ ea v r u k, busRead ea s = .next (v, r) ∧ busWrite ea (op v s.p).1 r = .next u ∧
      t = (u.setScratch k).setP (op v s.p).2 := by
  obtain ⟨k, hk⟩ := hm s
  rw [modifyMemory_eq hk, Res.andThen_eq_next] at h
  obtain ⟨⟨v, r⟩, hr, h⟩ := h
  rw [Res.map_eq_next] at h
  obtain ⟨u, hu, rfl⟩ := h
  exact ⟨k.ea, v, r, u, _, hr, hu, rfl⟩

/-- A completed indirect jump: two bus reads. -/
theorem indirect_cases {ptr : Addr} {s t : State} (h : indirect ptr s = .next t) :
    ∃ lo hi r u, busRead ptr s = .next (lo, r) ∧ busRead (nextInPage ptr) r = .next (hi, u) ∧ t = setEa (join hi lo) u := by
  rw [indirect, Res.map_eq_next] at h
  obtain ⟨⟨w, u⟩, hr, rfl⟩ := h
  rw [readPair, Res.andThen_eq_next] at hr
  obtain ⟨⟨lo, r⟩, h1, hr⟩ := hr
  rw [Res.map_eq_next] at hr
  obtain ⟨⟨hi, u'⟩, h2, e⟩ := hr
  cases e
  exact ⟨lo, hi, r, _, h1, h2, rfl⟩

/-! `Keeps`, for each shape. -/

/-- An effect on registers and flags that keeps the normal form of U and B. -/
structure RegisterEffect (effect : State → State) : Prop where
  frame : ∀ s, effect s = { s with a := (effect s).a, x := (effect s).x, y := (effect s).y, p := (effect s).p }
  unused : ∀ s, (effect s).p.u = s.p.u
  break_ : ∀ s, (effect s).p.b = s.p.b

theorem loadA_effect : RegisterEffect loadA := ⟨fun _ => rfl, fun _ => rfl, fun _ => rfl⟩
theorem loadX_effect : RegisterEffect loadX := ⟨fun _ => rfl, fun _ => rfl, fun _ => rfl⟩
theorem loadY_effect : RegisterEffect loadY := ⟨fun _ => rfl, fun _ => rfl, fun _ => rfl⟩
theorem addCarry_effect : RegisterEffect (combineA addCarry) := ⟨fun _ => rfl, fun _ => rfl, fun _ => rfl⟩
theorem subCarry_effect : RegisterEffect (combineA subCarry) := ⟨fun _ => rfl, fun _ => rfl, fun _ => rfl⟩
theorem andByte_effect : RegisterEffect (combineA andByte) := ⟨fun _ => rfl, fun _ => rfl, fun _ => rfl⟩
theorem orByte_effect : RegisterEffect (combineA orByte) := ⟨fun _ => rfl, fun _ => rfl, fun _ => rfl⟩
theorem eorByte_effect : RegisterEffect (combineA eorByte) := ⟨fun _ => rfl, fun _ => rfl, fun _ => rfl⟩
theorem compareA_effect : RegisterEffect compareA := ⟨fun _ => rfl, fun _ => rfl, fun _ => rfl⟩
theorem compareX_effect : RegisterEffect compareX := ⟨fun _ => rfl, fun _ => rfl, fun _ => rfl⟩
theorem compareY_effect : RegisterEffect compareY := ⟨fun _ => rfl, fun _ => rfl, fun _ => rfl⟩
theorem testA_effect : RegisterEffect testA := ⟨fun _ => rfl, fun _ => rfl, fun _ => rfl⟩

theorem RegisterEffect.keeps {effect : State → State} (h : RegisterEffect effect) (s : State) : Keeps s (effect s) :=
  Keeps.registers (by rw [h.frame s]) (fun hu => (h.unused s).trans hu) (fun hb => (h.break_ s).trans hb)

theorem setScratch_keeps (s : State) (k : Scratch) : Keeps s (s.setScratch k) := Keeps.registers rfl id id
theorem setPc_keeps (s : State) (a : Addr) : Keeps s (s.setPc a) := Keeps.registers rfl id id
theorem setSp_keeps (s : State) (b : Byte) : Keeps s (s.setSp b) := Keeps.registers rfl id id
theorem setCyc_keeps (s : State) (n : Nat) : Keeps s (s.setCyc n) := Keeps.registers rfl id id

theorem withImmediate_keeps {imm : Byte} {effect : State → State} {s t : State} (he : RegisterEffect effect)
    (h : withImmediate imm effect s = .next t) : Keeps s t := by
  cases h
  exact ((setScratch_keeps _ _).trans (setScratch_keeps _ _)).trans (he.keeps _)

theorem withOperand_keeps {mode : State → Res State} {effect : State → State} {s t : State} (hm : ScratchOnly mode)
    (he : RegisterEffect effect) (h : withOperand mode effect s = .next t) : Keeps s t := by
  obtain ⟨ea, v, r, k, hr, -, rfl⟩ := withOperand_cases hm h
  exact ((busRead_keeps hr).trans (setScratch_keeps _ _)).trans (he.keeps _)

theorem storeRegister_keeps {mode : State → Res State} {reg : State → Byte} {s t : State} (hm : ScratchOnly mode)
    (h : storeRegister mode reg s = .next t) : Keeps s t := by
  obtain ⟨ea, v, u, k, hu, rfl⟩ := storeRegister_cases hm h
  exact (busWrite_keeps hu).trans (setScratch_keeps _ _)

theorem modifyMemory_keeps {mode : State → Res State} {op : Byte → Status → Byte × Status} {s t : State}
    (hm : ScratchOnly mode) (ho : PlainOp op) (h : modifyMemory mode op s = .next t) : Keeps s t := by
  obtain ⟨ea, v, r, u, k, hr, hu, rfl⟩ := modifyMemory_cases hm h
  have ku := (busRead_keeps hr).trans (busWrite_keeps hu)
  have kt := ku.trans (setScratch_keeps u k)
  exact { kt with
    unused := fun h => by rw [State.setP_p, ho.keeps]; exact h
    break_ := fun h => by rw [State.setP_p, ho.keeps]; exact h
    stores := fun h => let w := kt.stores h; ⟨w.ram, w.xram, w.nt, w.pal, w.oam⟩ }

theorem modifyA_keeps {op : Byte → Status → Byte × Status} {s t : State} (ho : PlainOp op) (h : modifyA op s = .next t) :
    Keeps s t := by
  cases h
  exact Keeps.registers rfl (fun h => by rw [State.setP_p, ho.keeps]; exact h) (fun h => by rw [State.setP_p, ho.keeps]; exact h)

theorem modifyX_keeps {op : Byte → Status → Byte × Status} {s t : State} (ho : PlainOp op) (h : modifyX op s = .next t) :
    Keeps s t := by
  cases h
  exact Keeps.registers rfl (fun h => by rw [State.setP_p, ho.keeps]; exact h) (fun h => by rw [State.setP_p, ho.keeps]; exact h)

theorem modifyY_keeps {op : Byte → Status → Byte × Status} {s t : State} (ho : PlainOp op) (h : modifyY op s = .next t) :
    Keeps s t := by
  cases h
  exact Keeps.registers rfl (fun h => by rw [State.setP_p, ho.keeps]; exact h) (fun h => by rw [State.setP_p, ho.keeps]; exact h)

theorem branchIf_cases {cond : Bool} {rel : Byte} {s t : State} (h : branchIf cond rel s = .next t) :
    ∃ pc k, t = (s.setScratch k).setPc pc := by
  unfold branchIf at h
  split at h <;> cases h
  · exact ⟨_, _, rfl⟩
  · exact ⟨s.pc, { s.scratch with ea := s.pc + sext16 rel }, rfl⟩

theorem branchIf_keeps {cond : Bool} {rel : Byte} {s t : State} (h : branchIf cond rel s = .next t) : Keeps s t := by
  obtain ⟨pc, k, rfl⟩ := branchIf_cases h
  exact (setScratch_keeps _ _).trans (setPc_keeps _ _)

/-- A stack write keeps. -/
theorem push_keeps {v : Byte} {s t : State} (h : push v s = .next t) : Keeps s t := by
  rw [push, Res.map_eq_next] at h
  obtain ⟨u, hu, rfl⟩ := h
  exact (busWrite_keeps hu).trans (setSp_keeps _ _)

theorem pull_keeps {v : Byte} {s t : State} (h : pull s = .next (v, t)) : Keeps s t :=
  (setSp_keeps _ _).trans (busRead_keeps h)

theorem pushWord_keeps {w : Addr} {s t : State} (h : pushWord w s = .next t) : Keeps s t := by
  rw [pushWord, Res.andThen_eq_next] at h
  obtain ⟨u, hu, ht⟩ := h
  exact (push_keeps hu).trans (push_keeps ht)

theorem readPair_keeps {a b w : Addr} {s t : State} (h : readPair a b s = .next (w, t)) : Keeps s t := by
  rw [readPair, Res.andThen_eq_next] at h
  obtain ⟨⟨lo, r⟩, h1, h⟩ := h
  rw [Res.map_eq_next] at h
  obtain ⟨⟨hi, u⟩, h2, e⟩ := h
  cases e
  exact (busRead_keeps h1).trans (busRead_keeps h2)

theorem enterInterrupt_keeps {ret vector : Addr} {brk : Bool} {s t : State} (h : enterInterrupt ret brk vector s = .next t) :
    Keeps s t := by
  rw [enterInterrupt, Res.andThen_eq_next] at h
  obtain ⟨s1, h1, h⟩ := h
  rw [Res.andThen_eq_next] at h
  obtain ⟨s2, h2, h⟩ := h
  rw [Res.map_eq_next] at h
  obtain ⟨⟨w, s3⟩, h3, rfl⟩ := h
  have hp : Keeps s2 (s2.setP { s2.p with i := true }) := Keeps.registers rfl id id
  exact ((((pushWord_keeps h1).trans (push_keeps h2)).trans hp).trans (readPair_keeps h3)).trans (setPc_keeps _ _)

/-- Every instruction that completes keeps the frame. -/
theorem exec_keeps {i : Instr} {s t : State} (h : exec i s = .next t) : Keeps s t := by
  cases i
  case jmpAbs w => cases h; exact (setScratch_keeps _ _).trans (setPc_keeps _ _)
  case jmpInd p =>
    change (indirect p s).map _ = _ at h
    rw [Res.map_eq_next] at h
    obtain ⟨u, hu, rfl⟩ := h
    obtain ⟨lo, hi, r, u, h1, h2, rfl⟩ := indirect_cases hu
    exact (((busRead_keeps h1).trans (busRead_keeps h2)).trans (setScratch_keeps _ _)).trans (setPc_keeps _ _)
  case jsr w =>
    change (pushWord _ _).map _ = _ at h
    rw [Res.map_eq_next] at h
    obtain ⟨u, hu, rfl⟩ := h
    exact ((setScratch_keeps _ _).trans (pushWord_keeps hu)).trans (setPc_keeps _ _)
  case rts =>
    change (pullWord s).map _ = _ at h
    rw [pullWord_eq] at h
    cases h
    exact (setSp_keeps _ _).trans (setPc_keeps _ _)
  case pha => exact push_keeps h
  case php => exact push_keeps h
  case pla =>
    change (pull s).map _ = _ at h
    rw [pull_eq] at h
    cases h
    exact Keeps.registers rfl id id
  case plp =>
    change (pull s).map _ = _ at h
    rw [pull_eq] at h
    cases h
    exact Keeps.registers rfl (fun _ => rfl) (fun _ => rfl)
  case brk => exact enterInterrupt_keeps h
  case rti =>
    change returnFromInterrupt s = _ at h
    rw [returnFromInterrupt_eq] at h
    cases h
    exact Keeps.registers rfl (fun _ => rfl) (fun _ => rfl)
  case ldaImm => exact withImmediate_keeps loadA_effect h
  case ldaZp => exact withOperand_keeps (zeroPage_scratchOnly _) loadA_effect h
  case ldaZpx => exact withOperand_keeps (zeroPageX_scratchOnly _) loadA_effect h
  case ldaAbs => exact withOperand_keeps (absolute_scratchOnly _) loadA_effect h
  case ldaAbx => exact withOperand_keeps (absoluteX_scratchOnly _) loadA_effect h
  case ldaAby => exact withOperand_keeps (absoluteY_scratchOnly _) loadA_effect h
  case ldaIzx => exact withOperand_keeps (indexedIndirect_scratchOnly _) loadA_effect h
  case ldaIzy => exact withOperand_keeps (indirectIndexed_scratchOnly _) loadA_effect h
  case ldxImm => exact withImmediate_keeps loadX_effect h
  case ldxZp => exact withOperand_keeps (zeroPage_scratchOnly _) loadX_effect h
  case ldxZpy => exact withOperand_keeps (zeroPageY_scratchOnly _) loadX_effect h
  case ldxAbs => exact withOperand_keeps (absolute_scratchOnly _) loadX_effect h
  case ldxAby => exact withOperand_keeps (absoluteY_scratchOnly _) loadX_effect h
  case ldyImm => exact withImmediate_keeps loadY_effect h
  case ldyZp => exact withOperand_keeps (zeroPage_scratchOnly _) loadY_effect h
  case ldyZpx => exact withOperand_keeps (zeroPageX_scratchOnly _) loadY_effect h
  case ldyAbs => exact withOperand_keeps (absolute_scratchOnly _) loadY_effect h
  case ldyAbx => exact withOperand_keeps (absoluteX_scratchOnly _) loadY_effect h
  case staZp => exact storeRegister_keeps (zeroPage_scratchOnly _) h
  case staZpx => exact storeRegister_keeps (zeroPageX_scratchOnly _) h
  case staAbs => exact storeRegister_keeps (absolute_scratchOnly _) h
  case staAbx => exact storeRegister_keeps (absoluteX_scratchOnly _) h
  case staAby => exact storeRegister_keeps (absoluteY_scratchOnly _) h
  case staIzx => exact storeRegister_keeps (indexedIndirect_scratchOnly _) h
  case staIzy => exact storeRegister_keeps (indirectIndexed_scratchOnly _) h
  case stxZp => exact storeRegister_keeps (zeroPage_scratchOnly _) h
  case stxZpy => exact storeRegister_keeps (zeroPageY_scratchOnly _) h
  case stxAbs => exact storeRegister_keeps (absolute_scratchOnly _) h
  case styZp => exact storeRegister_keeps (zeroPage_scratchOnly _) h
  case styZpx => exact storeRegister_keeps (zeroPageX_scratchOnly _) h
  case styAbs => exact storeRegister_keeps (absolute_scratchOnly _) h
  case tax => cases h; exact Keeps.registers rfl id id
  case tay => cases h; exact Keeps.registers rfl id id
  case txa => cases h; exact Keeps.registers rfl id id
  case tya => cases h; exact Keeps.registers rfl id id
  case tsx => cases h; exact Keeps.registers rfl id id
  case txs => cases h; exact Keeps.registers rfl id id
  case adcImm => exact withImmediate_keeps addCarry_effect h
  case adcZp => exact withOperand_keeps (zeroPage_scratchOnly _) addCarry_effect h
  case adcZpx => exact withOperand_keeps (zeroPageX_scratchOnly _) addCarry_effect h
  case adcAbs => exact withOperand_keeps (absolute_scratchOnly _) addCarry_effect h
  case adcAbx => exact withOperand_keeps (absoluteX_scratchOnly _) addCarry_effect h
  case adcAby => exact withOperand_keeps (absoluteY_scratchOnly _) addCarry_effect h
  case adcIzx => exact withOperand_keeps (indexedIndirect_scratchOnly _) addCarry_effect h
  case adcIzy => exact withOperand_keeps (indirectIndexed_scratchOnly _) addCarry_effect h
  case sbcImm => exact withImmediate_keeps subCarry_effect h
  case sbcZp => exact withOperand_keeps (zeroPage_scratchOnly _) subCarry_effect h
  case sbcZpx => exact withOperand_keeps (zeroPageX_scratchOnly _) subCarry_effect h
  case sbcAbs => exact withOperand_keeps (absolute_scratchOnly _) subCarry_effect h
  case sbcAbx => exact withOperand_keeps (absoluteX_scratchOnly _) subCarry_effect h
  case sbcAby => exact withOperand_keeps (absoluteY_scratchOnly _) subCarry_effect h
  case sbcIzx => exact withOperand_keeps (indexedIndirect_scratchOnly _) subCarry_effect h
  case sbcIzy => exact withOperand_keeps (indirectIndexed_scratchOnly _) subCarry_effect h
  case andImm => exact withImmediate_keeps andByte_effect h
  case andZp => exact withOperand_keeps (zeroPage_scratchOnly _) andByte_effect h
  case andZpx => exact withOperand_keeps (zeroPageX_scratchOnly _) andByte_effect h
  case andAbs => exact withOperand_keeps (absolute_scratchOnly _) andByte_effect h
  case andAbx => exact withOperand_keeps (absoluteX_scratchOnly _) andByte_effect h
  case andAby => exact withOperand_keeps (absoluteY_scratchOnly _) andByte_effect h
  case andIzx => exact withOperand_keeps (indexedIndirect_scratchOnly _) andByte_effect h
  case andIzy => exact withOperand_keeps (indirectIndexed_scratchOnly _) andByte_effect h
  case oraImm => exact withImmediate_keeps orByte_effect h
  case oraZp => exact withOperand_keeps (zeroPage_scratchOnly _) orByte_effect h
  case oraZpx => exact withOperand_keeps (zeroPageX_scratchOnly _) orByte_effect h
  case oraAbs => exact withOperand_keeps (absolute_scratchOnly _) orByte_effect h
  case oraAbx => exact withOperand_keeps (absoluteX_scratchOnly _) orByte_effect h
  case oraAby => exact withOperand_keeps (absoluteY_scratchOnly _) orByte_effect h
  case oraIzx => exact withOperand_keeps (indexedIndirect_scratchOnly _) orByte_effect h
  case oraIzy => exact withOperand_keeps (indirectIndexed_scratchOnly _) orByte_effect h
  case eorImm => exact withImmediate_keeps eorByte_effect h
  case eorZp => exact withOperand_keeps (zeroPage_scratchOnly _) eorByte_effect h
  case eorZpx => exact withOperand_keeps (zeroPageX_scratchOnly _) eorByte_effect h
  case eorAbs => exact withOperand_keeps (absolute_scratchOnly _) eorByte_effect h
  case eorAbx => exact withOperand_keeps (absoluteX_scratchOnly _) eorByte_effect h
  case eorAby => exact withOperand_keeps (absoluteY_scratchOnly _) eorByte_effect h
  case eorIzx => exact withOperand_keeps (indexedIndirect_scratchOnly _) eorByte_effect h
  case eorIzy => exact withOperand_keeps (indirectIndexed_scratchOnly _) eorByte_effect h
  case cmpImm => exact withImmediate_keeps compareA_effect h
  case cmpZp => exact withOperand_keeps (zeroPage_scratchOnly _) compareA_effect h
  case cmpZpx => exact withOperand_keeps (zeroPageX_scratchOnly _) compareA_effect h
  case cmpAbs => exact withOperand_keeps (absolute_scratchOnly _) compareA_effect h
  case cmpAbx => exact withOperand_keeps (absoluteX_scratchOnly _) compareA_effect h
  case cmpAby => exact withOperand_keeps (absoluteY_scratchOnly _) compareA_effect h
  case cmpIzx => exact withOperand_keeps (indexedIndirect_scratchOnly _) compareA_effect h
  case cmpIzy => exact withOperand_keeps (indirectIndexed_scratchOnly _) compareA_effect h
  case cpxImm => exact withImmediate_keeps compareX_effect h
  case cpxZp => exact withOperand_keeps (zeroPage_scratchOnly _) compareX_effect h
  case cpxAbs => exact withOperand_keeps (absolute_scratchOnly _) compareX_effect h
  case cpyImm => exact withImmediate_keeps compareY_effect h
  case cpyZp => exact withOperand_keeps (zeroPage_scratchOnly _) compareY_effect h
  case cpyAbs => exact withOperand_keeps (absolute_scratchOnly _) compareY_effect h
  case bitZp => exact withOperand_keeps (zeroPage_scratchOnly _) testA_effect h
  case bitAbs => exact withOperand_keeps (absolute_scratchOnly _) testA_effect h
  case aslAcc => exact modifyA_keeps plainOp_shiftLeft h
  case aslZp => exact modifyMemory_keeps (zeroPage_scratchOnly _) plainOp_shiftLeft h
  case aslZpx => exact modifyMemory_keeps (zeroPageX_scratchOnly _) plainOp_shiftLeft h
  case aslAbs => exact modifyMemory_keeps (absolute_scratchOnly _) plainOp_shiftLeft h
  case aslAbx => exact modifyMemory_keeps (absoluteX_scratchOnly _) plainOp_shiftLeft h
  case lsrAcc => exact modifyA_keeps plainOp_shiftRight h
  case lsrZp => exact modifyMemory_keeps (zeroPage_scratchOnly _) plainOp_shiftRight h
  case lsrZpx => exact modifyMemory_keeps (zeroPageX_scratchOnly _) plainOp_shiftRight h
  case lsrAbs => exact modifyMemory_keeps (absolute_scratchOnly _) plainOp_shiftRight h
  case lsrAbx => exact modifyMemory_keeps (absoluteX_scratchOnly _) plainOp_shiftRight h
  case rolAcc => exact modifyA_keeps plainOp_rotateLeft h
  case rolZp => exact modifyMemory_keeps (zeroPage_scratchOnly _) plainOp_rotateLeft h
  case rolZpx => exact modifyMemory_keeps (zeroPageX_scratchOnly _) plainOp_rotateLeft h
  case rolAbs => exact modifyMemory_keeps (absolute_scratchOnly _) plainOp_rotateLeft h
  case rolAbx => exact modifyMemory_keeps (absoluteX_scratchOnly _) plainOp_rotateLeft h
  case rorAcc => exact modifyA_keeps plainOp_rotateRight h
  case rorZp => exact modifyMemory_keeps (zeroPage_scratchOnly _) plainOp_rotateRight h
  case rorZpx => exact modifyMemory_keeps (zeroPageX_scratchOnly _) plainOp_rotateRight h
  case rorAbs => exact modifyMemory_keeps (absolute_scratchOnly _) plainOp_rotateRight h
  case rorAbx => exact modifyMemory_keeps (absoluteX_scratchOnly _) plainOp_rotateRight h
  case incZp => exact modifyMemory_keeps (zeroPage_scratchOnly _) plainOp_increment h
  case incZpx => exact modifyMemory_keeps (zeroPageX_scratchOnly _) plainOp_increment h
  case incAbs => exact modifyMemory_keeps (absolute_scratchOnly _) plainOp_increment h
  case incAbx => exact modifyMemory_keeps (absoluteX_scratchOnly _) plainOp_increment h
  case decZp => exact modifyMemory_keeps (zeroPage_scratchOnly _) plainOp_decrement h
  case decZpx => exact modifyMemory_keeps (zeroPageX_scratchOnly _) plainOp_decrement h
  case decAbs => exact modifyMemory_keeps (absolute_scratchOnly _) plainOp_decrement h
  case decAbx => exact modifyMemory_keeps (absoluteX_scratchOnly _) plainOp_decrement h
  case inx => exact modifyX_keeps plainOp_increment h
  case iny => exact modifyY_keeps plainOp_increment h
  case dex => exact modifyX_keeps plainOp_decrement h
  case dey => exact modifyY_keeps plainOp_decrement h
  case bcc => exact branchIf_keeps h
  case bcs => exact branchIf_keeps h
  case beq => exact branchIf_keeps h
  case bne => exact branchIf_keeps h
  case bmi => exact branchIf_keeps h
  case bpl => exact branchIf_keeps h
  case bvc => exact branchIf_keeps h
  case bvs => exact branchIf_keeps h
  case clc => cases h; exact Keeps.registers rfl id id
  case sec => cases h; exact Keeps.registers rfl id id
  case cli => cases h; exact Keeps.registers rfl id id
  case sei => cases h; exact Keeps.registers rfl id id
  case clv => cases h; exact Keeps.registers rfl id id
  case cld => cases h; exact Keeps.registers rfl id id
  case sed => cases h; exact Keeps.registers rfl id id
  case nop => cases h; exact Keeps.registers rfl id id

end Sys2Proof.Machine
end

