-- ==== Sys2Proof/Laws/PerInstr.lean ====
section
/-! SUPPORT. Statements for all instructions, made constructor by constructor. `EncodedLength`: the first byte of an
instruction's encoding has a row in the opcode map, and as many bytes follow it as the row's mode says (30_encoding.md R103). -/

namespace Sys2Proof.Laws

/-- The encoding of an instruction is one byte of the opcode map and then its row's operand bytes. -/
def EncodedLength.Statement (i : Instr) : Prop :=
  ∃ op operands row, encode i = op :: operands ∧ opRow op = some row ∧ row.opcode = op ∧
    operands.length = row.mode.operandBytes

set_option maxRecDepth 4000

theorem EncodedLength.ldaImm (imm : Byte) : EncodedLength.Statement (.ldaImm imm) :=
  ⟨_, _, _, rfl, rfl, rfl, rfl⟩
theorem EncodedLength.ldaZp (zp : Byte) : EncodedLength.Statement (.ldaZp zp) :=
  ⟨_, _, _, rfl, rfl, rfl, rfl⟩
theorem EncodedLength.ldaZpx (zp : Byte) : EncodedLength.Statement (.ldaZpx zp) :=
  ⟨_, _, _, rfl, rfl, rfl, rfl⟩
theorem EncodedLength.ldaAbs (addr : Addr) : EncodedLength.Statement (.ldaAbs addr) :=
  ⟨_, _, _, rfl, rfl, rfl, rfl⟩
theorem EncodedLength.ldaAbx (addr : Addr) : EncodedLength.Statement (.ldaAbx addr) :=
  ⟨_, _, _, rfl, rfl, rfl, rfl⟩
theorem EncodedLength.ldaAby (addr : Addr) : EncodedLength.Statement (.ldaAby addr) :=
  ⟨_, _, _, rfl, rfl, rfl, rfl⟩
theorem EncodedLength.ldaIzx (zp : Byte) : EncodedLength.Statement (.ldaIzx zp) :=
  ⟨_, _, _, rfl, rfl, rfl, rfl⟩
theorem EncodedLength.ldaIzy (zp : Byte) : EncodedLength.Statement (.ldaIzy zp) :=
  ⟨_, _, _, rfl, rfl, rfl, rfl⟩
theorem EncodedLength.ldxImm (imm : Byte) : EncodedLength.Statement (.ldxImm imm) :=
  ⟨_, _, _, rfl, rfl, rfl, rfl⟩
theorem EncodedLength.ldxZp (zp : Byte) : EncodedLength.Statement (.ldxZp zp) :=
  ⟨_, _, _, rfl, rfl, rfl, rfl⟩
theorem EncodedLength.ldxZpy (zp : Byte) : EncodedLength.Statement (.ldxZpy zp) :=
  ⟨_, _, _, rfl, rfl, rfl, rfl⟩
theorem EncodedLength.ldxAbs (addr : Addr) : EncodedLength.Statement (.ldxAbs addr) :=
  ⟨_, _, _, rfl, rfl, rfl, rfl⟩
theorem EncodedLength.ldxAby (addr : Addr) : EncodedLength.Statement (.ldxAby addr) :=
  ⟨_, _, _, rfl, rfl, rfl, rfl⟩
theorem EncodedLength.ldyImm (imm : Byte) : EncodedLength.Statement (.ldyImm imm) :=
  ⟨_, _, _, rfl, rfl, rfl, rfl⟩
theorem EncodedLength.ldyZp (zp : Byte) : EncodedLength.Statement (.ldyZp zp) :=
  ⟨_, _, _, rfl, rfl, rfl, rfl⟩
theorem EncodedLength.ldyZpx (zp : Byte) : EncodedLength.Statement (.ldyZpx zp) :=
  ⟨_, _, _, rfl, rfl, rfl, rfl⟩
theorem EncodedLength.ldyAbs (addr : Addr) : EncodedLength.Statement (.ldyAbs addr) :=
  ⟨_, _, _, rfl, rfl, rfl, rfl⟩
theorem EncodedLength.ldyAbx (addr : Addr) : EncodedLength.Statement (.ldyAbx addr) :=
  ⟨_, _, _, rfl, rfl, rfl, rfl⟩
theorem EncodedLength.staZp (zp : Byte) : EncodedLength.Statement (.staZp zp) :=
  ⟨_, _, _, rfl, rfl, rfl, rfl⟩
theorem EncodedLength.staZpx (zp : Byte) : EncodedLength.Statement (.staZpx zp) :=
  ⟨_, _, _, rfl, rfl, rfl, rfl⟩
theorem EncodedLength.staAbs (addr : Addr) : EncodedLength.Statement (.staAbs addr) :=
  ⟨_, _, _, rfl, rfl, rfl, rfl⟩
theorem EncodedLength.staAbx (addr : Addr) : EncodedLength.Statement (.staAbx addr) :=
  ⟨_, _, _, rfl, rfl, rfl, rfl⟩
theorem EncodedLength.staAby (addr : Addr) : EncodedLength.Statement (.staAby addr) :=
  ⟨_, _, _, rfl, rfl, rfl, rfl⟩
theorem EncodedLength.staIzx (zp : Byte) : EncodedLength.Statement (.staIzx zp) :=
  ⟨_, _, _, rfl, rfl, rfl, rfl⟩
theorem EncodedLength.staIzy (zp : Byte) : EncodedLength.Statement (.staIzy zp) :=
  ⟨_, _, _, rfl, rfl, rfl, rfl⟩
theorem EncodedLength.stxZp (zp : Byte) : EncodedLength.Statement (.stxZp zp) :=
  ⟨_, _, _, rfl, rfl, rfl, rfl⟩
theorem EncodedLength.stxZpy (zp : Byte) : EncodedLength.Statement (.stxZpy zp) :=
  ⟨_, _, _, rfl, rfl, rfl, rfl⟩
theorem EncodedLength.stxAbs (addr : Addr) : EncodedLength.Statement (.stxAbs addr) :=
  ⟨_, _, _, rfl, rfl, rfl, rfl⟩
theorem EncodedLength.styZp (zp : Byte) : EncodedLength.Statement (.styZp zp) :=
  ⟨_, _, _, rfl, rfl, rfl, rfl⟩
theorem EncodedLength.styZpx (zp : Byte) : EncodedLength.Statement (.styZpx zp) :=
  ⟨_, _, _, rfl, rfl, rfl, rfl⟩
theorem EncodedLength.styAbs (addr : Addr) : EncodedLength.Statement (.styAbs addr) :=
  ⟨_, _, _, rfl, rfl, rfl, rfl⟩
theorem EncodedLength.tax : EncodedLength.Statement .tax := ⟨_, _, _, rfl, rfl, rfl, rfl⟩
theorem EncodedLength.tay : EncodedLength.Statement .tay := ⟨_, _, _, rfl, rfl, rfl, rfl⟩
theorem EncodedLength.txa : EncodedLength.Statement .txa := ⟨_, _, _, rfl, rfl, rfl, rfl⟩
theorem EncodedLength.tya : EncodedLength.Statement .tya := ⟨_, _, _, rfl, rfl, rfl, rfl⟩
theorem EncodedLength.tsx : EncodedLength.Statement .tsx := ⟨_, _, _, rfl, rfl, rfl, rfl⟩
theorem EncodedLength.txs : EncodedLength.Statement .txs := ⟨_, _, _, rfl, rfl, rfl, rfl⟩
theorem EncodedLength.adcImm (imm : Byte) : EncodedLength.Statement (.adcImm imm) :=
  ⟨_, _, _, rfl, rfl, rfl, rfl⟩
theorem EncodedLength.adcZp (zp : Byte) : EncodedLength.Statement (.adcZp zp) :=
  ⟨_, _, _, rfl, rfl, rfl, rfl⟩
theorem EncodedLength.adcZpx (zp : Byte) : EncodedLength.Statement (.adcZpx zp) :=
  ⟨_, _, _, rfl, rfl, rfl, rfl⟩
theorem EncodedLength.adcAbs (addr : Addr) : EncodedLength.Statement (.adcAbs addr) :=
  ⟨_, _, _, rfl, rfl, rfl, rfl⟩
theorem EncodedLength.adcAbx (addr : Addr) : EncodedLength.Statement (.adcAbx addr) :=
  ⟨_, _, _, rfl, rfl, rfl, rfl⟩
theorem EncodedLength.adcAby (addr : Addr) : EncodedLength.Statement (.adcAby addr) :=
  ⟨_, _, _, rfl, rfl, rfl, rfl⟩
theorem EncodedLength.adcIzx (zp : Byte) : EncodedLength.Statement (.adcIzx zp) :=
  ⟨_, _, _, rfl, rfl, rfl, rfl⟩
theorem EncodedLength.adcIzy (zp : Byte) : EncodedLength.Statement (.adcIzy zp) :=
  ⟨_, _, _, rfl, rfl, rfl, rfl⟩
theorem EncodedLength.sbcImm (imm : Byte) : EncodedLength.Statement (.sbcImm imm) :=
  ⟨_, _, _, rfl, rfl, rfl, rfl⟩
theorem EncodedLength.sbcZp (zp : Byte) : EncodedLength.Statement (.sbcZp zp) :=
  ⟨_, _, _, rfl, rfl, rfl, rfl⟩
theorem EncodedLength.sbcZpx (zp : Byte) : EncodedLength.Statement (.sbcZpx zp) :=
  ⟨_, _, _, rfl, rfl, rfl, rfl⟩
theorem EncodedLength.sbcAbs (addr : Addr) : EncodedLength.Statement (.sbcAbs addr) :=
  ⟨_, _, _, rfl, rfl, rfl, rfl⟩
theorem EncodedLength.sbcAbx (addr : Addr) : EncodedLength.Statement (.sbcAbx addr) :=
  ⟨_, _, _, rfl, rfl, rfl, rfl⟩
theorem EncodedLength.sbcAby (addr : Addr) : EncodedLength.Statement (.sbcAby addr) :=
  ⟨_, _, _, rfl, rfl, rfl, rfl⟩
theorem EncodedLength.sbcIzx (zp : Byte) : EncodedLength.Statement (.sbcIzx zp) :=
  ⟨_, _, _, rfl, rfl, rfl, rfl⟩
theorem EncodedLength.sbcIzy (zp : Byte) : EncodedLength.Statement (.sbcIzy zp) :=
  ⟨_, _, _, rfl, rfl, rfl, rfl⟩
theorem EncodedLength.andImm (imm : Byte) : EncodedLength.Statement (.andImm imm) :=
  ⟨_, _, _, rfl, rfl, rfl, rfl⟩
theorem EncodedLength.andZp (zp : Byte) : EncodedLength.Statement (.andZp zp) :=
  ⟨_, _, _, rfl, rfl, rfl, rfl⟩
theorem EncodedLength.andZpx (zp : Byte) : EncodedLength.Statement (.andZpx zp) :=
  ⟨_, _, _, rfl, rfl, rfl, rfl⟩
theorem EncodedLength.andAbs (addr : Addr) : EncodedLength.Statement (.andAbs addr) :=
  ⟨_, _, _, rfl, rfl, rfl, rfl⟩
theorem EncodedLength.andAbx (addr : Addr) : EncodedLength.Statement (.andAbx addr) :=
  ⟨_, _, _, rfl, rfl, rfl, rfl⟩
theorem EncodedLength.andAby (addr : Addr) : EncodedLength.Statement (.andAby addr) :=
  ⟨_, _, _, rfl, rfl, rfl, rfl⟩
theorem EncodedLength.andIzx (zp : Byte) : EncodedLength.Statement (.andIzx zp) :=
  ⟨_, _, _, rfl, rfl, rfl, rfl⟩
theorem EncodedLength.andIzy (zp : Byte) : EncodedLength.Statement (.andIzy zp) :=
  ⟨_, _, _, rfl, rfl, rfl, rfl⟩
theorem EncodedLength.oraImm (imm : Byte) : EncodedLength.Statement (.oraImm imm) :=
  ⟨_, _, _, rfl, rfl, rfl, rfl⟩
theorem EncodedLength.oraZp (zp : Byte) : EncodedLength.Statement (.oraZp zp) :=
  ⟨_, _, _, rfl, rfl, rfl, rfl⟩
theorem EncodedLength.oraZpx (zp : Byte) : EncodedLength.Statement (.oraZpx zp) :=
  ⟨_, _, _, rfl, rfl, rfl, rfl⟩
theorem EncodedLength.oraAbs (addr : Addr) : EncodedLength.Statement (.oraAbs addr) :=
  ⟨_, _, _, rfl, rfl, rfl, rfl⟩
theorem EncodedLength.oraAbx (addr : Addr) : EncodedLength.Statement (.oraAbx addr) :=
  ⟨_, _, _, rfl, rfl, rfl, rfl⟩
theorem EncodedLength.oraAby (addr : Addr) : EncodedLength.Statement (.oraAby addr) :=
  ⟨_, _, _, rfl, rfl, rfl, rfl⟩
theorem EncodedLength.oraIzx (zp : Byte) : EncodedLength.Statement (.oraIzx zp) :=
  ⟨_, _, _, rfl, rfl, rfl, rfl⟩
theorem EncodedLength.oraIzy (zp : Byte) : EncodedLength.Statement (.oraIzy zp) :=
  ⟨_, _, _, rfl, rfl, rfl, rfl⟩
theorem EncodedLength.eorImm (imm : Byte) : EncodedLength.Statement (.eorImm imm) :=
  ⟨_, _, _, rfl, rfl, rfl, rfl⟩
theorem EncodedLength.eorZp (zp : Byte) : EncodedLength.Statement (.eorZp zp) :=
  ⟨_, _, _, rfl, rfl, rfl, rfl⟩
theorem EncodedLength.eorZpx (zp : Byte) : EncodedLength.Statement (.eorZpx zp) :=
  ⟨_, _, _, rfl, rfl, rfl, rfl⟩
theorem EncodedLength.eorAbs (addr : Addr) : EncodedLength.Statement (.eorAbs addr) :=
  ⟨_, _, _, rfl, rfl, rfl, rfl⟩
theorem EncodedLength.eorAbx (addr : Addr) : EncodedLength.Statement (.eorAbx addr) :=
  ⟨_, _, _, rfl, rfl, rfl, rfl⟩
theorem EncodedLength.eorAby (addr : Addr) : EncodedLength.Statement (.eorAby addr) :=
  ⟨_, _, _, rfl, rfl, rfl, rfl⟩
theorem EncodedLength.eorIzx (zp : Byte) : EncodedLength.Statement (.eorIzx zp) :=
  ⟨_, _, _, rfl, rfl, rfl, rfl⟩
theorem EncodedLength.eorIzy (zp : Byte) : EncodedLength.Statement (.eorIzy zp) :=
  ⟨_, _, _, rfl, rfl, rfl, rfl⟩
theorem EncodedLength.cmpImm (imm : Byte) : EncodedLength.Statement (.cmpImm imm) :=
  ⟨_, _, _, rfl, rfl, rfl, rfl⟩
theorem EncodedLength.cmpZp (zp : Byte) : EncodedLength.Statement (.cmpZp zp) :=
  ⟨_, _, _, rfl, rfl, rfl, rfl⟩
theorem EncodedLength.cmpZpx (zp : Byte) : EncodedLength.Statement (.cmpZpx zp) :=
  ⟨_, _, _, rfl, rfl, rfl, rfl⟩
theorem EncodedLength.cmpAbs (addr : Addr) : EncodedLength.Statement (.cmpAbs addr) :=
  ⟨_, _, _, rfl, rfl, rfl, rfl⟩
theorem EncodedLength.cmpAbx (addr : Addr) : EncodedLength.Statement (.cmpAbx addr) :=
  ⟨_, _, _, rfl, rfl, rfl, rfl⟩
theorem EncodedLength.cmpAby (addr : Addr) : EncodedLength.Statement (.cmpAby addr) :=
  ⟨_, _, _, rfl, rfl, rfl, rfl⟩
theorem EncodedLength.cmpIzx (zp : Byte) : EncodedLength.Statement (.cmpIzx zp) :=
  ⟨_, _, _, rfl, rfl, rfl, rfl⟩
theorem EncodedLength.cmpIzy (zp : Byte) : EncodedLength.Statement (.cmpIzy zp) :=
  ⟨_, _, _, rfl, rfl, rfl, rfl⟩
theorem EncodedLength.cpxImm (imm : Byte) : EncodedLength.Statement (.cpxImm imm) :=
  ⟨_, _, _, rfl, rfl, rfl, rfl⟩
theorem EncodedLength.cpxZp (zp : Byte) : EncodedLength.Statement (.cpxZp zp) :=
  ⟨_, _, _, rfl, rfl, rfl, rfl⟩
theorem EncodedLength.cpxAbs (addr : Addr) : EncodedLength.Statement (.cpxAbs addr) :=
  ⟨_, _, _, rfl, rfl, rfl, rfl⟩
theorem EncodedLength.cpyImm (imm : Byte) : EncodedLength.Statement (.cpyImm imm) :=
  ⟨_, _, _, rfl, rfl, rfl, rfl⟩
theorem EncodedLength.cpyZp (zp : Byte) : EncodedLength.Statement (.cpyZp zp) :=
  ⟨_, _, _, rfl, rfl, rfl, rfl⟩
theorem EncodedLength.cpyAbs (addr : Addr) : EncodedLength.Statement (.cpyAbs addr) :=
  ⟨_, _, _, rfl, rfl, rfl, rfl⟩
theorem EncodedLength.bitZp (zp : Byte) : EncodedLength.Statement (.bitZp zp) :=
  ⟨_, _, _, rfl, rfl, rfl, rfl⟩
theorem EncodedLength.bitAbs (addr : Addr) : EncodedLength.Statement (.bitAbs addr) :=
  ⟨_, _, _, rfl, rfl, rfl, rfl⟩
theorem EncodedLength.aslAcc : EncodedLength.Statement .aslAcc := ⟨_, _, _, rfl, rfl, rfl, rfl⟩
theorem EncodedLength.aslZp (zp : Byte) : EncodedLength.Statement (.aslZp zp) :=
  ⟨_, _, _, rfl, rfl, rfl, rfl⟩
theorem EncodedLength.aslZpx (zp : Byte) : EncodedLength.Statement (.aslZpx zp) :=
  ⟨_, _, _, rfl, rfl, rfl, rfl⟩
theorem EncodedLength.aslAbs (addr : Addr) : EncodedLength.Statement (.aslAbs addr) :=
  ⟨_, _, _, rfl, rfl, rfl, rfl⟩
theorem EncodedLength.aslAbx (addr : Addr) : EncodedLength.Statement (.aslAbx addr) :=
  ⟨_, _, _, rfl, rfl, rfl, rfl⟩
theorem EncodedLength.lsrAcc : EncodedLength.Statement .lsrAcc := ⟨_, _, _, rfl, rfl, rfl, rfl⟩
theorem EncodedLength.lsrZp (zp : Byte) : EncodedLength.Statement (.lsrZp zp) :=
  ⟨_, _, _, rfl, rfl, rfl, rfl⟩
theorem EncodedLength.lsrZpx (zp : Byte) : EncodedLength.Statement (.lsrZpx zp) :=
  ⟨_, _, _, rfl, rfl, rfl, rfl⟩
theorem EncodedLength.lsrAbs (addr : Addr) : EncodedLength.Statement (.lsrAbs addr) :=
  ⟨_, _, _, rfl, rfl, rfl, rfl⟩
theorem EncodedLength.lsrAbx (addr : Addr) : EncodedLength.Statement (.lsrAbx addr) :=
  ⟨_, _, _, rfl, rfl, rfl, rfl⟩
theorem EncodedLength.rolAcc : EncodedLength.Statement .rolAcc := ⟨_, _, _, rfl, rfl, rfl, rfl⟩
theorem EncodedLength.rolZp (zp : Byte) : EncodedLength.Statement (.rolZp zp) :=
  ⟨_, _, _, rfl, rfl, rfl, rfl⟩
theorem EncodedLength.rolZpx (zp : Byte) : EncodedLength.Statement (.rolZpx zp) :=
  ⟨_, _, _, rfl, rfl, rfl, rfl⟩
theorem EncodedLength.rolAbs (addr : Addr) : EncodedLength.Statement (.rolAbs addr) :=
  ⟨_, _, _, rfl, rfl, rfl, rfl⟩
theorem EncodedLength.rolAbx (addr : Addr) : EncodedLength.Statement (.rolAbx addr) :=
  ⟨_, _, _, rfl, rfl, rfl, rfl⟩
theorem EncodedLength.rorAcc : EncodedLength.Statement .rorAcc := ⟨_, _, _, rfl, rfl, rfl, rfl⟩
theorem EncodedLength.rorZp (zp : Byte) : EncodedLength.Statement (.rorZp zp) :=
  ⟨_, _, _, rfl, rfl, rfl, rfl⟩
theorem EncodedLength.rorZpx (zp : Byte) : EncodedLength.Statement (.rorZpx zp) :=
  ⟨_, _, _, rfl, rfl, rfl, rfl⟩
theorem EncodedLength.rorAbs (addr : Addr) : EncodedLength.Statement (.rorAbs addr) :=
  ⟨_, _, _, rfl, rfl, rfl, rfl⟩
theorem EncodedLength.rorAbx (addr : Addr) : EncodedLength.Statement (.rorAbx addr) :=
  ⟨_, _, _, rfl, rfl, rfl, rfl⟩
theorem EncodedLength.incZp (zp : Byte) : EncodedLength.Statement (.incZp zp) :=
  ⟨_, _, _, rfl, rfl, rfl, rfl⟩
theorem EncodedLength.incZpx (zp : Byte) : EncodedLength.Statement (.incZpx zp) :=
  ⟨_, _, _, rfl, rfl, rfl, rfl⟩
theorem EncodedLength.incAbs (addr : Addr) : EncodedLength.Statement (.incAbs addr) :=
  ⟨_, _, _, rfl, rfl, rfl, rfl⟩
theorem EncodedLength.incAbx (addr : Addr) : EncodedLength.Statement (.incAbx addr) :=
  ⟨_, _, _, rfl, rfl, rfl, rfl⟩
theorem EncodedLength.decZp (zp : Byte) : EncodedLength.Statement (.decZp zp) :=
  ⟨_, _, _, rfl, rfl, rfl, rfl⟩
theorem EncodedLength.decZpx (zp : Byte) : EncodedLength.Statement (.decZpx zp) :=
  ⟨_, _, _, rfl, rfl, rfl, rfl⟩
theorem EncodedLength.decAbs (addr : Addr) : EncodedLength.Statement (.decAbs addr) :=
  ⟨_, _, _, rfl, rfl, rfl, rfl⟩
theorem EncodedLength.decAbx (addr : Addr) : EncodedLength.Statement (.decAbx addr) :=
  ⟨_, _, _, rfl, rfl, rfl, rfl⟩
theorem EncodedLength.inx : EncodedLength.Statement .inx := ⟨_, _, _, rfl, rfl, rfl, rfl⟩
theorem EncodedLength.iny : EncodedLength.Statement .iny := ⟨_, _, _, rfl, rfl, rfl, rfl⟩
theorem EncodedLength.dex : EncodedLength.Statement .dex := ⟨_, _, _, rfl, rfl, rfl, rfl⟩
theorem EncodedLength.dey : EncodedLength.Statement .dey := ⟨_, _, _, rfl, rfl, rfl, rfl⟩
theorem EncodedLength.bcc (rel : Byte) : EncodedLength.Statement (.bcc rel) :=
  ⟨_, _, _, rfl, rfl, rfl, rfl⟩
theorem EncodedLength.bcs (rel : Byte) : EncodedLength.Statement (.bcs rel) :=
  ⟨_, _, _, rfl, rfl, rfl, rfl⟩
theorem EncodedLength.beq (rel : Byte) : EncodedLength.Statement (.beq rel) :=
  ⟨_, _, _, rfl, rfl, rfl, rfl⟩
theorem EncodedLength.bne (rel : Byte) : EncodedLength.Statement (.bne rel) :=
  ⟨_, _, _, rfl, rfl, rfl, rfl⟩
theorem EncodedLength.bmi (rel : Byte) : EncodedLength.Statement (.bmi rel) :=
  ⟨_, _, _, rfl, rfl, rfl, rfl⟩
theorem EncodedLength.bpl (rel : Byte) : EncodedLength.Statement (.bpl rel) :=
  ⟨_, _, _, rfl, rfl, rfl, rfl⟩
theorem EncodedLength.bvc (rel : Byte) : EncodedLength.Statement (.bvc rel) :=
  ⟨_, _, _, rfl, rfl, rfl, rfl⟩
theorem EncodedLength.bvs (rel : Byte) : EncodedLength.Statement (.bvs rel) :=
  ⟨_, _, _, rfl, rfl, rfl, rfl⟩
theorem EncodedLength.jmpAbs (addr : Addr) : EncodedLength.Statement (.jmpAbs addr) :=
  ⟨_, _, _, rfl, rfl, rfl, rfl⟩
theorem EncodedLength.jmpInd (ptr : Addr) : EncodedLength.Statement (.jmpInd ptr) :=
  ⟨_, _, _, rfl, rfl, rfl, rfl⟩
theorem EncodedLength.jsr (addr : Addr) : EncodedLength.Statement (.jsr addr) :=
  ⟨_, _, _, rfl, rfl, rfl, rfl⟩
theorem EncodedLength.rts : EncodedLength.Statement .rts := ⟨_, _, _, rfl, rfl, rfl, rfl⟩
theorem EncodedLength.pha : EncodedLength.Statement .pha := ⟨_, _, _, rfl, rfl, rfl, rfl⟩
theorem EncodedLength.php : EncodedLength.Statement .php := ⟨_, _, _, rfl, rfl, rfl, rfl⟩
theorem EncodedLength.pla : EncodedLength.Statement .pla := ⟨_, _, _, rfl, rfl, rfl, rfl⟩
theorem EncodedLength.plp : EncodedLength.Statement .plp := ⟨_, _, _, rfl, rfl, rfl, rfl⟩
theorem EncodedLength.clc : EncodedLength.Statement .clc := ⟨_, _, _, rfl, rfl, rfl, rfl⟩
theorem EncodedLength.sec : EncodedLength.Statement .sec := ⟨_, _, _, rfl, rfl, rfl, rfl⟩
theorem EncodedLength.cli : EncodedLength.Statement .cli := ⟨_, _, _, rfl, rfl, rfl, rfl⟩
theorem EncodedLength.sei : EncodedLength.Statement .sei := ⟨_, _, _, rfl, rfl, rfl, rfl⟩
theorem EncodedLength.clv : EncodedLength.Statement .clv := ⟨_, _, _, rfl, rfl, rfl, rfl⟩
theorem EncodedLength.cld : EncodedLength.Statement .cld := ⟨_, _, _, rfl, rfl, rfl, rfl⟩
theorem EncodedLength.sed : EncodedLength.Statement .sed := ⟨_, _, _, rfl, rfl, rfl, rfl⟩
theorem EncodedLength.nop : EncodedLength.Statement .nop := ⟨_, _, _, rfl, rfl, rfl, rfl⟩
theorem EncodedLength.brk : EncodedLength.Statement .brk := ⟨_, _, _, rfl, rfl, rfl, rfl⟩
theorem EncodedLength.rti : EncodedLength.Statement .rti := ⟨_, _, _, rfl, rfl, rfl, rfl⟩

end Sys2Proof.Laws
end

