-- ==== Sys2Proof/Laws/Step.lean ====
section
/-! SUPPORT. The host's signals, the processor's tick, the VTU's tick, and the step taken apart. -/

namespace Sys2Proof.Machine

/-! The signals keep the frame of an instruction. -/

theorem nmi_eq_entry {s : State} (h : s.fault = none) : nmi s = (enterInterrupt s.pc false vecNmi s).map addIntCycles := by
  rw [nmi, h]

theorem nmi_keeps {s t : State} (h : nmi s = .next t) : Keeps s t := by
  cases hf : s.fault with
  | some f => rw [nmi, hf] at h; cases h; exact Keeps.refl _
  | none =>
    rw [nmi_eq_entry hf, Res.map_eq_next] at h
    obtain ⟨u, hu, rfl⟩ := h
    exact (enterInterrupt_keeps hu).trans (setCyc_keeps _ _)

theorem irq_keeps {s t : State} (h : irq s = .next t) : Keeps s t := by
  rw [irq] at h
  split at h
  · cases h; exact Keeps.refl _
  · split at h
    · cases h; exact Keeps.refl _
    · rw [Res.map_eq_next] at h
      obtain ⟨u, hu, rfl⟩ := h
      exact (enterInterrupt_keeps hu).trans (setCyc_keeps _ _)

theorem resetSignal_keeps {s t : State} (h : resetSignal s = .next t) : Keeps s t := by
  rw [resetSignal] at h
  split at h
  · cases h; exact Keeps.refl _
  · rw [Res.map_eq_next] at h
    obtain ⟨⟨w, u⟩, hu, rfl⟩ := h
    have hp : Keeps s (s.setP { s.p with i := true }) := Keeps.registers rfl id id
    exact ((hp.trans (readPair_keeps hu)).trans (setPc_keeps _ _)).trans (setCyc_keeps _ _)

theorem signal_keeps {c : Signal} {s t : State} (h : signal c s = .next t) : Keeps s t := by
  cases c
  · exact irq_keeps h
  · exact nmi_keeps h
  · exact resetSignal_keeps h

theorem signals_keeps {calls : List Signal} {s t : State} (h : signals calls s = .next t) : Keeps s t := by
  induction calls generalizing s with
  | nil => cases h; exact Keeps.refl _
  | cons c rest ih =>
    rw [signals, Res.andThen_eq_next] at h
    obtain ⟨u, hu, ht⟩ := h
    exact (signal_keeps hu).trans (ih ht)

/-! The fetch. -/

theorem fetch8_keeps {b : Byte} {s t : State} (h : fetch8 s = .next (b, t)) : Keeps s t := by
  rw [fetch8, Res.map_eq_next] at h
  obtain ⟨⟨v, r⟩, hr, e⟩ := h
  cases e
  exact (busRead_keeps hr).trans (setPc_keeps _ _)

theorem fetchBytes_keeps {k : Nat} {l : List Byte} {s t : State} (h : fetchBytes k s = .next (l, t)) : Keeps s t := by
  induction k generalizing s l with
  | zero => cases h; exact Keeps.refl _
  | succ k ih =>
    rw [fetchBytes, Res.andThen_eq_next] at h
    obtain ⟨⟨b, u⟩, hu, h⟩ := h
    rw [Res.map_eq_next] at h
    obtain ⟨⟨bs, w⟩, hw, e⟩ := h
    cases e
    exact (fetch8_keeps hu).trans (ih hw)

/-- A completed fetch: the opcode byte, its row, its operand bytes, the decoded instruction. -/
theorem fetchInstr_cases {s : State} {f : Fetched} (h : fetchInstr s = .next f) :
    ∃ op s1 rest s2 left, fetch8 s = .next (op, s1) ∧ opRow op = some f.row ∧
      fetchBytes f.row.mode.operandBytes s1 = .next (rest, s2) ∧ decode (op :: rest) = .ok (f.instr, left) ∧
      f.state = s2.setScratch { s2.scratch with
        opcode := op, mode := f.row.mode, pageCrossed := false, extra := 0 } := by
  rw [fetchInstr, Res.andThen_eq_next] at h
  obtain ⟨⟨op, s1⟩, h1, h⟩ := h
  split at h
  · cases h
  · next row hrow =>
    rw [Res.andThen_eq_next] at h
    obtain ⟨⟨rest, s2⟩, h2, h⟩ := h
    split at h
    · cases h
    · next i left hd =>
      cases h
      exact ⟨op, s1, rest, s2, left, h1, hrow, h2, hd, rfl⟩

theorem fetchInstr_keeps {s : State} {f : Fetched} (h : fetchInstr s = .next f) : Keeps s f.state := by
  obtain ⟨op, s1, rest, s2, left, h1, -, h2, -, e⟩ := fetchInstr_cases h
  rw [e]
  exact ((fetch8_keeps h1).trans (fetchBytes_keeps h2)).trans (setScratch_keeps _ _)

/-- A tick that completes: a cycle of the wait, or a whole instruction. -/
theorem tick_cases {s t : State} (h : tick s = .next t) :
    (∃ c, s.cyc = c + 1 ∧ t = s.setCyc c) ∨
    (s.cyc = 0 ∧ ∃ f u, fetchInstr s = .next f ∧ exec f.instr f.state = .next u ∧ t = u.setCyc (waitOf f.row u.scratch)) := by
  rw [tick] at h
  split at h
  · next hc =>
    rw [runInstr, Res.andThen_eq_next] at h
    obtain ⟨f, hf, h⟩ := h
    rw [Res.map_eq_next] at h
    obtain ⟨u, hu, rfl⟩ := h
    exact .inr ⟨hc, f, u, hf, hu, rfl⟩
  · next c hc => cases h; exact .inl ⟨c, hc, rfl⟩

theorem tick_keeps {s t : State} (h : tick s = .next t) : Keeps s t := by
  rcases tick_cases h with ⟨c, -, rfl⟩ | ⟨-, f, u, hf, hu, rfl⟩
  · exact setCyc_keeps _ _
  · exact ((fetchInstr_keeps hf).trans (exec_keeps hu)).trans (setCyc_keeps _ _)

/-! The VTU's ticks. -/

/-- A VTU tick that completes: the counters, then perhaps the NMI entry. -/
theorem tickClock_cases {s t : State} (h : tickClock s = .next t) :
    (s.vtu.raisesNmi = false ∧ t = s.setVtu s.vtu.count) ∨ (s.vtu.raisesNmi = true ∧ nmi (s.setVtu s.vtu.count) = .next t) := by
  rw [tickClock] at h
  split at h
  · next hr => exact .inr ⟨hr, h⟩
  · next hr => cases h; exact .inl ⟨by simpa using hr, rfl⟩

/-- The last tick taken apart instead of the first. -/
theorem clockTicks_succ_last (k : Nat) (s : State) : clockTicks (k + 1) s = (clockTicks k s).andThen tickClock := by
  induction k generalizing s with
  | zero => simp only [clockTicks, Res.andThen_next]; cases tickClock s <;> rfl
  | succ k ih =>
    show (tickClock s).andThen (clockTicks (k + 1)) = ((tickClock s).andThen (clockTicks k)).andThen tickClock
    rw [funext ih, Res.andThen_assoc]

/-- The NMI entry sees nothing of the VTU. -/
theorem nmi_setVtu (s : State) (u : Vtu) : nmi (s.setVtu u) = (nmi s).map fun t => t.setVtu u := by
  cases hf : s.fault with
  | some f => rw [nmi, nmi, State.setVtu_fault, hf]; rfl
  | none =>
    rw [nmi_eq_entry hf, nmi_eq_entry (s := s.setVtu u) hf]
    cases hc : s.cart with
    | none => rw [enterInterrupt_no_cart (by decide) hc, enterInterrupt_no_cart (by decide) (s := s.setVtu u) hc]; rfl
    | some c =>
      rw [enterInterrupt_eq (by decide) (by decide) hc, enterInterrupt_eq (by decide) (by decide) (s := s.setVtu u) hc]
      rfl

/-! The step. -/

/-- A step that completes: no fault before it, the host's calls, the tick, three VTU ticks. -/
theorem step_cases {s t : State} (h : step s = .next t) :
    s.fault = none ∧ ∃ s1 s2, signals (s.hostCalls.headD []) (s.setHostCalls s.hostCalls.tail) = .next s1 ∧
      tick s1 = .next s2 ∧ clockTicks 3 s2 = .next t := by
  rw [step, runStep] at h
  split at h
  · cases h
  · next hf =>
    rw [Res.andThen_eq_next] at h
    obtain ⟨s1, h1, h⟩ := h
    rw [masterStep, Res.andThen_eq_next] at h
    obtain ⟨s2, h2, h3⟩ := h
    refine ⟨hf, s1, s2, ?_, h2, h3⟩
    rw [takeHostCalls] at h1
    split at h1
    · next e => cases h1; rw [e]; show Host.Outcome.next (s.setHostCalls []) = _; rw [← e]; rfl
    · next calls later e => rw [e]; exact h1

end Sys2Proof.Machine
end

