-- ==== Sys2Proof/Tests/Slice0.lean ====
section
/-! SUPPORT. Tests of single steps and witnesses that every obligation's hypotheses can be met. Expected results come from
95_test_vectors.md (a theorem's name ends in the vector's id), from 30_encoding.md R105 and R106, or from the worked examples
of that file's part 1. -/

namespace Sys2Proof.Tests

open Sys2Proof.Machine Sys2Proof.Safety

/-! Helpers: the default start state of 95_test_vectors.md section 0, bytes stored behind bus addresses, and one run. -/

/-- The six flags `N V D I Z C`, first letter first, in the normal form of U and B. -/
def flags (x : BitVec 6) : Status :=
  { n := x.getLsbD 5, v := x.getLsbD 4, u := true, b := false, d := x.getLsbD 3, i := x.getLsbD 2, z := x.getLsbD 1
    c := x.getLsbD 0 }

/-- Bytes stored behind bus addresses. -/
def storing : List (Addr × Byte) → State → State
  | [], s => s
  | (a, v) :: rest, s => storing rest (placeByte a v s)

/-- The default start state with an instruction's bytes at `pc`. -/
def vecStart (pc : Addr) (bytes : List Byte) : State := placeBytes pc bytes { State.reset with pc := pc, cyc := 0 }

/-- The result is a next state that passes. -/
def passes (r : Res State) (ok : State → Bool) : Bool :=
  match r with
  | .next t => ok t
  | .fault _ => false
  | .refused _ => false

/-- The result is this fault. -/
def stops {α : Type} (r : Res α) (f : Fault) : Bool :=
  match r with
  | .next _ => false
  | .fault e => decide (e = f)
  | .refused _ => false

/-- One processor tick. -/
def oneTick (s : State) (ok : State → Bool) : Bool := passes (tick s) ok

/-- A bus access of a sequence: a write, or a read and the byte it answers. -/
inductive BusOp where
  | w (a : Addr) (v : Byte)
  | r (a : Addr) (v : Byte)
  deriving DecidableEq, Repr

/-- The accesses in order, each read answering the byte named. -/
def busOps : List BusOp → State → (State → Bool) → Bool
  | [], s, ok => ok s
  | .w a v :: rest, s, ok => passes (busWrite a v s) fun t => busOps rest t ok
  | .r a v :: rest, s, ok =>
    match busRead a s with
    | .next (b, t) => decide (b = v) && busOps rest t ok
    | .fault _ => false
    | .refused _ => false

/-- Every listed word decodes to its instruction with nothing left. -/
def decodesAll (l : List (List Byte × Instr)) : Bool :=
  l.all fun c => match decode c.1 with | .ok (i, rest) => decide (i = c.2) && decide (rest = []) | .error _ => false

/-- The machine with no cartridge. -/
def noCart : State := State.reset.setCart none

/-- The machine with a cartridge that has no graphics bank. -/
def noChr : State := State.reset.setCart (some { blankCartridge with chrBanks := 0 })

/-- The machine with its VTU's `v` at a value. -/
def atV (v : Loopy) (s : State) : State := s.setVtu { s.vtu with v := v }

/-! Well-formedness: an ill-formed term for each check, refused. Every value of an instruction's operand fits its field, so no
instruction is ill-formed. -/

theorem test_wf_blank : blankCartridge.wf := ⟨memWf_nil _, memWf_nil _, memWf_nil _⟩
theorem test_wf_refuses_prg_beyond_one_bank :
    ¬ ({ blankCartridge with prgBanks := .one, prg := [(0x4000, 1#8)] } : Cartridge).wf := by decide
theorem test_wf_refuses_prg_beyond_two_banks :
    ¬ ({ blankCartridge with prg := [(0x8000, 1#8)] } : Cartridge).wf := by decide
theorem test_wf_refuses_listed_zero : ¬ ({ blankCartridge with prg := [(5, 0#8)] } : Cartridge).wf := by decide
theorem test_wf_refuses_falling_indices :
    ¬ ({ blankCartridge with prg := [(5, 1#8), (4, 1#8)] } : Cartridge).wf := by decide
theorem test_wf_refuses_repeated_index :
    ¬ ({ blankCartridge with prg := [(5, 1#8), (5, 1#8)] } : Cartridge).wf := by decide
theorem test_wf_refuses_chr_beyond_banks : ¬ ({ blankCartridge with chr := [(0x2000, 1#8)] } : Cartridge).wf := by decide
theorem test_wf_refuses_long_trainer : ¬ ({ blankCartridge with trainerBlock := [(512, 1#8)] } : Cartridge).wf := by decide
theorem test_launch_refuses_ram_beyond_size :
    ¬ ({ recommendedLaunch blankCartridge with ram := [(0x800, 1#8)] } : Launch).wf := by decide
theorem test_launch_refuses_xram_beyond_size :
    ¬ ({ recommendedLaunch blankCartridge with xram := [(0x4000, 1#8)] } : Launch).wf := by decide
theorem test_launch_refuses_nt_beyond_size :
    ¬ ({ recommendedLaunch blankCartridge with nt := [(0x800, 1#8)] } : Launch).wf := by decide
theorem test_launch_refuses_pal_beyond_size :
    ¬ ({ recommendedLaunch blankCartridge with pal := [(0x20, 1#8)] } : Launch).wf := by decide
theorem test_launch_refuses_oam_beyond_size :
    ¬ ({ recommendedLaunch blankCartridge with oam := [(0x100, 1#8)] } : Launch).wf := by decide
theorem test_launch_refuses_bad_cartridge :
    ¬ (recommendedLaunch { blankCartridge with chrBanks := 0, chr := [(0, 1#8)] }).wf := by decide

/-! The opcode map (30_encoding.md R105): each defined byte, with operand bytes, decodes to its row's instruction; then the
counts of the worked example E1. -/

theorem test_decode_row_0x : decodesAll
  [([0x00#8], .brk), ([0x01#8, 0x9C#8], .oraIzx 0x9C#8), ([0x05#8, 0x9C#8], .oraZp 0x9C#8),
   ([0x06#8, 0x9C#8], .aslZp 0x9C#8), ([0x08#8], .php), ([0x09#8, 0x9C#8], .oraImm 0x9C#8), ([0x0A#8], .aslAcc),
   ([0x0D#8, 0x34#8, 0xC2#8], .oraAbs 0xC234#16), ([0x0E#8, 0x34#8, 0xC2#8], .aslAbs 0xC234#16)] = true := by decide
theorem test_decode_row_1x : decodesAll
  [([0x10#8, 0x9C#8], .bpl 0x9C#8), ([0x11#8, 0x9C#8], .oraIzy 0x9C#8), ([0x15#8, 0x9C#8], .oraZpx 0x9C#8),
   ([0x16#8, 0x9C#8], .aslZpx 0x9C#8), ([0x18#8], .clc), ([0x19#8, 0x34#8, 0xC2#8], .oraAby 0xC234#16),
   ([0x1D#8, 0x34#8, 0xC2#8], .oraAbx 0xC234#16), ([0x1E#8, 0x34#8, 0xC2#8], .aslAbx 0xC234#16)] = true := by decide
theorem test_decode_row_2x : decodesAll
  [([0x20#8, 0x34#8, 0xC2#8], .jsr 0xC234#16), ([0x21#8, 0x9C#8], .andIzx 0x9C#8),
   ([0x24#8, 0x9C#8], .bitZp 0x9C#8), ([0x25#8, 0x9C#8], .andZp 0x9C#8), ([0x26#8, 0x9C#8], .rolZp 0x9C#8),
   ([0x28#8], .plp), ([0x29#8, 0x9C#8], .andImm 0x9C#8), ([0x2A#8], .rolAcc),
   ([0x2C#8, 0x34#8, 0xC2#8], .bitAbs 0xC234#16), ([0x2D#8, 0x34#8, 0xC2#8], .andAbs 0xC234#16),
   ([0x2E#8, 0x34#8, 0xC2#8], .rolAbs 0xC234#16)] = true := by decide
theorem test_decode_row_3x : decodesAll
  [([0x30#8, 0x9C#8], .bmi 0x9C#8), ([0x31#8, 0x9C#8], .andIzy 0x9C#8), ([0x35#8, 0x9C#8], .andZpx 0x9C#8),
   ([0x36#8, 0x9C#8], .rolZpx 0x9C#8), ([0x38#8], .sec), ([0x39#8, 0x34#8, 0xC2#8], .andAby 0xC234#16),
   ([0x3D#8, 0x34#8, 0xC2#8], .andAbx 0xC234#16), ([0x3E#8, 0x34#8, 0xC2#8], .rolAbx 0xC234#16)] = true := by decide
theorem test_decode_row_4x : decodesAll
  [([0x40#8], .rti), ([0x41#8, 0x9C#8], .eorIzx 0x9C#8), ([0x45#8, 0x9C#8], .eorZp 0x9C#8),
   ([0x46#8, 0x9C#8], .lsrZp 0x9C#8), ([0x48#8], .pha), ([0x49#8, 0x9C#8], .eorImm 0x9C#8), ([0x4A#8], .lsrAcc),
   ([0x4C#8, 0x34#8, 0xC2#8], .jmpAbs 0xC234#16), ([0x4D#8, 0x34#8, 0xC2#8], .eorAbs 0xC234#16),
   ([0x4E#8, 0x34#8, 0xC2#8], .lsrAbs 0xC234#16)] = true := by decide
theorem test_decode_row_5x : decodesAll
  [([0x50#8, 0x9C#8], .bvc 0x9C#8), ([0x51#8, 0x9C#8], .eorIzy 0x9C#8), ([0x55#8, 0x9C#8], .eorZpx 0x9C#8),
   ([0x56#8, 0x9C#8], .lsrZpx 0x9C#8), ([0x58#8], .cli), ([0x59#8, 0x34#8, 0xC2#8], .eorAby 0xC234#16),
   ([0x5D#8, 0x34#8, 0xC2#8], .eorAbx 0xC234#16), ([0x5E#8, 0x34#8, 0xC2#8], .lsrAbx 0xC234#16)] = true := by decide
theorem test_decode_row_6x : decodesAll
  [([0x60#8], .rts), ([0x61#8, 0x9C#8], .adcIzx 0x9C#8), ([0x65#8, 0x9C#8], .adcZp 0x9C#8),
   ([0x66#8, 0x9C#8], .rorZp 0x9C#8), ([0x68#8], .pla), ([0x69#8, 0x9C#8], .adcImm 0x9C#8), ([0x6A#8], .rorAcc),
   ([0x6C#8, 0x34#8, 0xC2#8], .jmpInd 0xC234#16), ([0x6D#8, 0x34#8, 0xC2#8], .adcAbs 0xC234#16),
   ([0x6E#8, 0x34#8, 0xC2#8], .rorAbs 0xC234#16)] = true := by decide
theorem test_decode_row_7x : decodesAll
  [([0x70#8, 0x9C#8], .bvs 0x9C#8), ([0x71#8, 0x9C#8], .adcIzy 0x9C#8), ([0x75#8, 0x9C#8], .adcZpx 0x9C#8),
   ([0x76#8, 0x9C#8], .rorZpx 0x9C#8), ([0x78#8], .sei), ([0x79#8, 0x34#8, 0xC2#8], .adcAby 0xC234#16),
   ([0x7D#8, 0x34#8, 0xC2#8], .adcAbx 0xC234#16), ([0x7E#8, 0x34#8, 0xC2#8], .rorAbx 0xC234#16)] = true := by decide
theorem test_decode_row_8x : decodesAll
  [([0x81#8, 0x9C#8], .staIzx 0x9C#8), ([0x84#8, 0x9C#8], .styZp 0x9C#8), ([0x85#8, 0x9C#8], .staZp 0x9C#8),
   ([0x86#8, 0x9C#8], .stxZp 0x9C#8), ([0x88#8], .dey), ([0x8A#8], .txa),
   ([0x8C#8, 0x34#8, 0xC2#8], .styAbs 0xC234#16), ([0x8D#8, 0x34#8, 0xC2#8], .staAbs 0xC234#16),
   ([0x8E#8, 0x34#8, 0xC2#8], .stxAbs 0xC234#16)] = true := by decide
theorem test_decode_row_9x : decodesAll
  [([0x90#8, 0x9C#8], .bcc 0x9C#8), ([0x91#8, 0x9C#8], .staIzy 0x9C#8), ([0x94#8, 0x9C#8], .styZpx 0x9C#8),
   ([0x95#8, 0x9C#8], .staZpx 0x9C#8), ([0x96#8, 0x9C#8], .stxZpy 0x9C#8), ([0x98#8], .tya),
   ([0x99#8, 0x34#8, 0xC2#8], .staAby 0xC234#16), ([0x9A#8], .txs), ([0x9D#8, 0x34#8, 0xC2#8], .staAbx 0xC234#16)] = true := by decide
theorem test_decode_row_Ax : decodesAll
  [([0xA0#8, 0x9C#8], .ldyImm 0x9C#8), ([0xA1#8, 0x9C#8], .ldaIzx 0x9C#8), ([0xA2#8, 0x9C#8], .ldxImm 0x9C#8),
   ([0xA4#8, 0x9C#8], .ldyZp 0x9C#8), ([0xA5#8, 0x9C#8], .ldaZp 0x9C#8), ([0xA6#8, 0x9C#8], .ldxZp 0x9C#8),
   ([0xA8#8], .tay), ([0xA9#8, 0x9C#8], .ldaImm 0x9C#8), ([0xAA#8], .tax),
   ([0xAC#8, 0x34#8, 0xC2#8], .ldyAbs 0xC234#16), ([0xAD#8, 0x34#8, 0xC2#8], .ldaAbs 0xC234#16),
   ([0xAE#8, 0x34#8, 0xC2#8], .ldxAbs 0xC234#16)] = true := by decide
theorem test_decode_row_Bx : decodesAll
  [([0xB0#8, 0x9C#8], .bcs 0x9C#8), ([0xB1#8, 0x9C#8], .ldaIzy 0x9C#8), ([0xB4#8, 0x9C#8], .ldyZpx 0x9C#8),
   ([0xB5#8, 0x9C#8], .ldaZpx 0x9C#8), ([0xB6#8, 0x9C#8], .ldxZpy 0x9C#8), ([0xB8#8], .clv),
   ([0xB9#8, 0x34#8, 0xC2#8], .ldaAby 0xC234#16), ([0xBA#8], .tsx), ([0xBC#8, 0x34#8, 0xC2#8], .ldyAbx 0xC234#16),
   ([0xBD#8, 0x34#8, 0xC2#8], .ldaAbx 0xC234#16), ([0xBE#8, 0x34#8, 0xC2#8], .ldxAby 0xC234#16)] = true := by decide
theorem test_decode_row_Cx : decodesAll
  [([0xC0#8, 0x9C#8], .cpyImm 0x9C#8), ([0xC1#8, 0x9C#8], .cmpIzx 0x9C#8), ([0xC4#8, 0x9C#8], .cpyZp 0x9C#8),
   ([0xC5#8, 0x9C#8], .cmpZp 0x9C#8), ([0xC6#8, 0x9C#8], .decZp 0x9C#8), ([0xC8#8], .iny),
   ([0xC9#8, 0x9C#8], .cmpImm 0x9C#8), ([0xCA#8], .dex), ([0xCC#8, 0x34#8, 0xC2#8], .cpyAbs 0xC234#16),
   ([0xCD#8, 0x34#8, 0xC2#8], .cmpAbs 0xC234#16), ([0xCE#8, 0x34#8, 0xC2#8], .decAbs 0xC234#16)] = true := by decide
theorem test_decode_row_Dx : decodesAll
  [([0xD0#8, 0x9C#8], .bne 0x9C#8), ([0xD1#8, 0x9C#8], .cmpIzy 0x9C#8), ([0xD5#8, 0x9C#8], .cmpZpx 0x9C#8),
   ([0xD6#8, 0x9C#8], .decZpx 0x9C#8), ([0xD8#8], .cld), ([0xD9#8, 0x34#8, 0xC2#8], .cmpAby 0xC234#16),
   ([0xDD#8, 0x34#8, 0xC2#8], .cmpAbx 0xC234#16), ([0xDE#8, 0x34#8, 0xC2#8], .decAbx 0xC234#16)] = true := by decide
theorem test_decode_row_Ex : decodesAll
  [([0xE0#8, 0x9C#8], .cpxImm 0x9C#8), ([0xE1#8, 0x9C#8], .sbcIzx 0x9C#8), ([0xE4#8, 0x9C#8], .cpxZp 0x9C#8),
   ([0xE5#8, 0x9C#8], .sbcZp 0x9C#8), ([0xE6#8, 0x9C#8], .incZp 0x9C#8), ([0xE8#8], .inx),
   ([0xE9#8, 0x9C#8], .sbcImm 0x9C#8), ([0xEA#8], .nop), ([0xEC#8, 0x34#8, 0xC2#8], .cpxAbs 0xC234#16),
   ([0xED#8, 0x34#8, 0xC2#8], .sbcAbs 0xC234#16), ([0xEE#8, 0x34#8, 0xC2#8], .incAbs 0xC234#16)] = true := by decide
theorem test_decode_row_Fx : decodesAll
  [([0xF0#8, 0x9C#8], .beq 0x9C#8), ([0xF1#8, 0x9C#8], .sbcIzy 0x9C#8), ([0xF5#8, 0x9C#8], .sbcZpx 0x9C#8),
   ([0xF6#8, 0x9C#8], .incZpx 0x9C#8), ([0xF8#8], .sed), ([0xF9#8, 0x34#8, 0xC2#8], .sbcAby 0xC234#16),
   ([0xFD#8, 0x34#8, 0xC2#8], .sbcAbx 0xC234#16), ([0xFE#8, 0x34#8, 0xC2#8], .incAbx 0xC234#16)] = true := by decide

theorem test_decode_refuses_undefined : decode [0x80#8, 0x00#8, 0x00#8] = .error (.illegalOpcode 0x80#8) := by decide
theorem test_decode_refuses_truncated : decode [0xAD#8, 0x34#8] = .error .truncated := by decide
theorem test_decodeTableWord_numbers_bytes : decodeTableWord 24 0x1234AD = some (.ldaAbs 0x1234#16) := by decide
theorem test_decodeTableWord_drops_high_bits : decodeTableWord 8 0x1234A9 = some (.ldaImm 0x00#8) := by decide
theorem test_encode_puts_low_byte_first : encode (.jmpAbs 0x1234#16) = [0x4C#8, 0x34#8, 0x12#8] := by decide

set_option maxRecDepth 2000 in
theorem test_E1_rows : opTable.length = 151 := by decide
theorem test_E1_lengths :
    opTable.countP (fun r => r.mode.operandBytes = 0) = 29 ∧ opTable.countP (fun r => r.mode.operandBytes = 1) = 74 ∧
    opTable.countP (fun r => r.mode.operandBytes = 2) = 48 := by decide
theorem test_E1_cycles :
    opTable.countP (fun r => r.cycles = 2) = 41 ∧ opTable.countP (fun r => r.cycles = 3) = 18 ∧
    opTable.countP (fun r => r.cycles = 4) = 45 ∧ opTable.countP (fun r => r.cycles = 5) = 16 ∧
    opTable.countP (fun r => r.cycles = 6) = 24 ∧ opTable.countP (fun r => r.cycles = 7) = 7 := by decide
theorem test_E1_penalties : opTable.countP (fun r => r.penalty) = 23 := by decide
theorem test_E1_modes :
    opTable.countP (fun r => r.mode = .imp) = 25 ∧ opTable.countP (fun r => r.mode = .acc) = 4 ∧
    opTable.countP (fun r => r.mode = .imm) = 11 ∧ opTable.countP (fun r => r.mode = .zp) = 21 ∧
    opTable.countP (fun r => r.mode = .zpx) = 16 ∧ opTable.countP (fun r => r.mode = .zpy) = 2 ∧
    opTable.countP (fun r => r.mode = .abs) = 23 ∧ opTable.countP (fun r => r.mode = .abx) = 15 ∧
    opTable.countP (fun r => r.mode = .aby) = 9 ∧ opTable.countP (fun r => r.mode = .ind) = 1 ∧
    opTable.countP (fun r => r.mode = .izx) = 8 ∧ opTable.countP (fun r => r.mode = .izy) = 8 ∧
    opTable.countP (fun r => r.mode = .rel) = 8 := by decide
set_option maxRecDepth 2000 in
theorem test_E1_checksum : opTable.foldl (fun n r => n + r.opcode.toNat * r.cycles) 0 = 74297 := by decide

/-! Loads, stores, transfers (95_test_vectors.md 2.1). -/

theorem test_ldaImm_V40_1 : oneTick
    (vecStart 0x8000#16 [0xA9#8, 0x00#8])
    (fun t => t.p = flags 0b000110#6 && t.pc = 0x8002#16 && t.cyc = 2) = true := by decide
theorem test_ldaZpx_V40_4 : oneTick
    { storing [(0x0001#16, 0x11#8), (0x0101#16, 0x22#8)] (vecStart 0x8000#16 [0xB5#8, 0xFF#8]) with x := 0x02#8 }
    (fun t => t.x = 0x02#8 && t.a = 0x11#8 && t.p = flags 0b000100#6 && t.pc = 0x8002#16 && t.cyc = 4) = true := by decide
theorem test_ldaAbx_V40_6 : oneTick
    { storing [(0x8100#16, 0x44#8)] (vecStart 0x8000#16 [0xBD#8, 0xF0#8, 0x80#8]) with x := 0x10#8 }
    (fun t => t.x = 0x10#8 && t.a = 0x44#8 && t.p = flags 0b000100#6 && t.pc = 0x8003#16 && t.cyc = 5) = true := by decide
theorem test_ldaAby_V40_7 : oneTick
    { storing [(0x0001#16, 0x55#8)] (vecStart 0x8000#16 [0xB9#8, 0xFF#8, 0xFF#8]) with y := 0x02#8 }
    (fun t => t.y = 0x02#8 && t.a = 0x55#8 && t.p = flags 0b000100#6 && t.pc = 0x8003#16 && t.cyc = 5) = true := by decide
theorem test_ldaIzx_V40_8 : oneTick
    { storing [(0x00FF#16, 0x02#8), (0x0000#16, 0x03#8), (0x0100#16, 0x09#8), (0x0302#16, 0x66#8)] (vecStart 0x8000#16 [0xA1#8, 0xFE#8]) with x := 0x01#8 }
    (fun t => t.x = 0x01#8 && t.a = 0x66#8 && t.p = flags 0b000100#6 && t.pc = 0x8002#16 && t.cyc = 6) = true := by decide
theorem test_ldaIzy_V40_9 : oneTick
    { storing [(0x00FF#16, 0xF0#8), (0x0000#16, 0x02#8), (0x0300#16, 0x77#8)] (vecStart 0x8000#16 [0xB1#8, 0xFF#8]) with y := 0x10#8 }
    (fun t => t.y = 0x10#8 && t.a = 0x77#8 && t.p = flags 0b000100#6 && t.pc = 0x8002#16 && t.cyc = 6) = true := by decide
theorem test_ldaAbs_V40_12 : oneTick
    { vecStart 0x8000#16 [0xAD#8, 0x02#8, 0x20#8] with vtu := { Vtu.powerOn with status := 0x80#8, rbuf := 0x7F#8, w := true } }
    (fun t => t.a = 0x9F#8 && t.p = flags 0b100100#6 && t.vtu.status = 0x00#8 && t.vtu.w = false && t.pc = 0x8003#16 && t.cyc = 4) = true := by decide
theorem test_ldxZpy_V40_17 : oneTick
    { storing [(0x0010#16, 0x0C#8)] (vecStart 0x8000#16 [0xB6#8, 0xF0#8]) with y := 0x20#8 }
    (fun t => t.y = 0x20#8 && t.x = 0x0C#8 && t.p = flags 0b000100#6 && t.pc = 0x8002#16 && t.cyc = 4) = true := by decide
theorem test_ldxAby_V40_18 : oneTick
    { storing [(0x8100#16, 0x00#8)] (vecStart 0x8000#16 [0xBE#8, 0xFF#8, 0x80#8]) with y := 0x01#8 }
    (fun t => t.y = 0x01#8 && t.p = flags 0b000110#6 && t.pc = 0x8003#16 && t.cyc = 5) = true := by decide
theorem test_ldyImm_V40_19 : oneTick
    (vecStart 0x8000#16 [0xA0#8, 0x7F#8])
    (fun t => t.y = 0x7F#8 && t.p = flags 0b000100#6 && t.pc = 0x8002#16 && t.cyc = 2) = true := by decide
theorem test_ldyAbx_V40_20 : oneTick
    { storing [(0x02FF#16, 0x81#8)] (vecStart 0x8000#16 [0xBC#8, 0x00#8, 0x02#8]) with x := 0xFF#8 }
    (fun t => t.x = 0xFF#8 && t.y = 0x81#8 && t.p = flags 0b100100#6 && t.pc = 0x8003#16 && t.cyc = 4) = true := by decide
theorem test_staAbs_V40_22 : oneTick
    { vecStart 0x8000#16 [0x8D#8, 0x00#8, 0x0A#8] with a := 0x42#8 }
    (fun t => t.a = 0x42#8 && t.p = flags 0b000100#6 && memRead t.ram 0x0200 = 0x42#8 && t.pc = 0x8003#16 && t.cyc = 4) = true := by decide
theorem test_staAbx_V40_23 : oneTick
    { vecStart 0x8000#16 [0x9D#8, 0xFF#8, 0x02#8] with a := 0x42#8, x := 0x01#8 }
    (fun t => t.a = 0x42#8 && t.x = 0x01#8 && t.p = flags 0b000100#6 && memRead t.ram 0x0300 = 0x42#8 && t.pc = 0x8003#16 && t.cyc = 5) = true := by decide
theorem test_staAbs_V40_24 : oneTick
    { vecStart 0x8000#16 [0x8D#8, 0x00#8, 0x90#8] with a := 0x42#8 }
    (fun t => t.a = 0x42#8 && t.p = flags 0b000100#6 && t.pc = 0x8003#16 && t.cyc = 4) = true := by decide
theorem test_staIzy_V40_27 : oneTick
    { storing [(0x0010#16, 0x01#8), (0x0011#16, 0x02#8)] (vecStart 0x8000#16 [0x91#8, 0x10#8]) with a := 0x42#8, y := 0xFF#8 }
    (fun t => t.a = 0x42#8 && t.y = 0xFF#8 && t.p = flags 0b000100#6 && memRead t.ram 0x0300 = 0x42#8 && t.pc = 0x8002#16 && t.cyc = 6) = true := by decide
theorem test_staIzx_V40_28 : oneTick
    { storing [(0x0004#16, 0x00#8), (0x0005#16, 0x06#8)] (vecStart 0x8000#16 [0x81#8, 0x00#8]) with a := 0x42#8, x := 0x04#8 }
    (fun t => t.a = 0x42#8 && t.x = 0x04#8 && t.p = flags 0b000100#6 && memRead t.ram 0x0600 = 0x42#8 && t.pc = 0x8002#16 && t.cyc = 6) = true := by decide
theorem test_stxZp_V40_29 : oneTick
    { vecStart 0x8000#16 [0x86#8, 0x10#8] with x := 0x07#8 }
    (fun t => t.x = 0x07#8 && t.p = flags 0b000100#6 && memRead t.ram 0x0010 = 0x07#8 && t.pc = 0x8002#16 && t.cyc = 3) = true := by decide
theorem test_stxZpy_V40_30 : oneTick
    { vecStart 0x8000#16 [0x96#8, 0xFF#8] with x := 0x07#8, y := 0x02#8 }
    (fun t => t.x = 0x07#8 && t.y = 0x02#8 && t.p = flags 0b000100#6 && memRead t.ram 0x0001 = 0x07#8 && t.pc = 0x8002#16 && t.cyc = 4) = true := by decide
theorem test_styAbs_V40_31 : oneTick
    { vecStart 0x8000#16 [0x8C#8, 0x00#8, 0x40#8] with y := 0x09#8 }
    (fun t => t.y = 0x09#8 && t.p = flags 0b000100#6 && memRead t.xram 0x0000 = 0x09#8 && t.pc = 0x8003#16 && t.cyc = 4) = true := by decide
theorem test_styZpx_V40_32 : oneTick
    { vecStart 0x8000#16 [0x94#8, 0xF0#8] with y := 0x09#8, x := 0x20#8 }
    (fun t => t.y = 0x09#8 && t.x = 0x20#8 && t.p = flags 0b000100#6 && memRead t.ram 0x0010 = 0x09#8 && t.pc = 0x8002#16 && t.cyc = 4) = true := by decide
theorem test_tax_V40_33 : oneTick
    { vecStart 0x8000#16 [0xAA#8] with a := 0x00#8, x := 0x55#8 }
    (fun t => t.a = 0x00#8 && t.x = 0x00#8 && t.p = flags 0b000110#6 && t.pc = 0x8001#16 && t.cyc = 2) = true := by decide
theorem test_tay_V40_34 : oneTick
    { vecStart 0x8000#16 [0xA8#8] with a := 0x90#8 }
    (fun t => t.a = 0x90#8 && t.y = 0x90#8 && t.p = flags 0b100100#6 && t.pc = 0x8001#16 && t.cyc = 2) = true := by decide
theorem test_txa_V40_35 : oneTick
    { vecStart 0x8000#16 [0x8A#8] with x := 0x01#8, a := 0xFF#8 }
    (fun t => t.x = 0x01#8 && t.a = 0x01#8 && t.p = flags 0b000100#6 && t.pc = 0x8001#16 && t.cyc = 2) = true := by decide
theorem test_tya_V40_36 : oneTick
    { vecStart 0x8000#16 [0x98#8] with y := 0xFF#8 }
    (fun t => t.y = 0xFF#8 && t.a = 0xFF#8 && t.p = flags 0b100100#6 && t.pc = 0x8001#16 && t.cyc = 2) = true := by decide
theorem test_tsx_V40_37 : oneTick
    (vecStart 0x8000#16 [0xBA#8])
    (fun t => t.x = 0xFD#8 && t.p = flags 0b100100#6 && t.pc = 0x8001#16 && t.cyc = 2) = true := by decide
theorem test_txs_V40_38 : oneTick
    { vecStart 0x8000#16 [0x9A#8] with x := 0x00#8 }
    (fun t => t.x = 0x00#8 && t.sp = 0x00#8 && t.p = flags 0b000100#6 && t.pc = 0x8001#16 && t.cyc = 2) = true := by decide

/-! Arithmetic, logic, compare, BIT (2.2). -/

theorem test_adcImm_V41_1 : oneTick
    { vecStart 0x8000#16 [0x69#8, 0x50#8] with a := 0x50#8 }
    (fun t => t.a = 0xA0#8 && t.p = flags 0b110100#6 && t.pc = 0x8002#16 && t.cyc = 2) = true := by decide
theorem test_adcImm_V41_3 : oneTick
    { vecStart 0x8000#16 [0x69#8, 0x00#8] with a := 0x7F#8, p := flags 0b000101#6 }
    (fun t => t.a = 0x80#8 && t.p = flags 0b110100#6 && t.pc = 0x8002#16 && t.cyc = 2) = true := by decide
theorem test_adcAbx_V41_9 : oneTick
    { storing [(0x8100#16, 0x01#8)] (vecStart 0x8000#16 [0x7D#8, 0xFF#8, 0x80#8]) with a := 0x01#8, x := 0x01#8 }
    (fun t => t.a = 0x02#8 && t.x = 0x01#8 && t.p = flags 0b000100#6 && t.pc = 0x8003#16 && t.cyc = 5) = true := by decide
theorem test_sbcImm_V41_12 : oneTick
    { vecStart 0x8000#16 [0xE9#8, 0xB0#8] with a := 0x50#8, p := flags 0b000101#6 }
    (fun t => t.a = 0xA0#8 && t.p = flags 0b110100#6 && t.pc = 0x8002#16 && t.cyc = 2) = true := by decide
theorem test_sbcImm_V41_15 : oneTick
    { vecStart 0x8000#16 [0xE9#8, 0x00#8] with a := 0x00#8 }
    (fun t => t.a = 0xFF#8 && t.p = flags 0b100100#6 && t.pc = 0x8002#16 && t.cyc = 2) = true := by decide
theorem test_andImm_V41_19 : oneTick
    { vecStart 0x8000#16 [0x29#8, 0x00#8] with a := 0xFF#8, p := flags 0b100101#6 }
    (fun t => t.a = 0x00#8 && t.p = flags 0b000111#6 && t.pc = 0x8002#16 && t.cyc = 2) = true := by decide
theorem test_oraImm_V41_20 : oneTick
    { vecStart 0x8000#16 [0x09#8, 0x80#8] with a := 0x0F#8 }
    (fun t => t.a = 0x8F#8 && t.p = flags 0b100100#6 && t.pc = 0x8002#16 && t.cyc = 2) = true := by decide
theorem test_eorImm_V41_22 : oneTick
    { vecStart 0x8000#16 [0x49#8, 0xFF#8] with a := 0xAA#8 }
    (fun t => t.a = 0x55#8 && t.p = flags 0b000100#6 && t.pc = 0x8002#16 && t.cyc = 2) = true := by decide
theorem test_cmpImm_V41_24 : oneTick
    { vecStart 0x8000#16 [0xC9#8, 0x41#8] with a := 0x40#8 }
    (fun t => t.a = 0x40#8 && t.p = flags 0b100100#6 && t.pc = 0x8002#16 && t.cyc = 2) = true := by decide
theorem test_cmpImm_V41_27 : oneTick
    { vecStart 0x8000#16 [0xC9#8, 0x00#8] with a := 0x80#8, p := flags 0b010100#6 }
    (fun t => t.a = 0x80#8 && t.p = flags 0b110101#6 && t.pc = 0x8002#16 && t.cyc = 2) = true := by decide
theorem test_cpxImm_V41_28 : oneTick
    { vecStart 0x8000#16 [0xE0#8, 0x10#8] with x := 0x10#8 }
    (fun t => t.x = 0x10#8 && t.p = flags 0b000111#6 && t.pc = 0x8002#16 && t.cyc = 2) = true := by decide
theorem test_cpyImm_V41_30 : oneTick
    { vecStart 0x8000#16 [0xC0#8, 0xFF#8] with y := 0x00#8, p := flags 0b100111#6 }
    (fun t => t.y = 0x00#8 && t.p = flags 0b000100#6 && t.pc = 0x8002#16 && t.cyc = 2) = true := by decide
theorem test_cpyZp_V41_31 : oneTick
    { storing [(0x007F#16, 0x7F#8)] (vecStart 0x8000#16 [0xC4#8, 0x7F#8]) with y := 0x80#8 }
    (fun t => t.y = 0x80#8 && t.p = flags 0b000101#6 && t.pc = 0x8002#16 && t.cyc = 3) = true := by decide
theorem test_bitZp_V41_33 : oneTick
    { storing [(0x0010#16, 0x3F#8)] (vecStart 0x8000#16 [0x24#8, 0x10#8]) with a := 0xFF#8, p := flags 0b110110#6 }
    (fun t => t.a = 0xFF#8 && t.p = flags 0b000100#6 && t.pc = 0x8002#16 && t.cyc = 3) = true := by decide
theorem test_bitAbs_V41_34 : oneTick
    { vecStart 0x8000#16 [0x2C#8, 0x02#8, 0x20#8] with a := 0x00#8, vtu := { Vtu.powerOn with status := 0x80#8, w := true } }
    (fun t => t.a = 0x00#8 && t.p = flags 0b100110#6 && t.vtu.status = 0x00#8 && t.vtu.w = false && t.pc = 0x8003#16 && t.cyc = 4) = true := by decide

/-! Shifts, rotates, increments, decrements (2.3). -/

theorem test_aslAcc_V42_2 : oneTick
    { vecStart 0x8000#16 [0x0A#8] with a := 0x80#8 }
    (fun t => t.a = 0x00#8 && t.p = flags 0b000111#6 && t.pc = 0x8001#16 && t.cyc = 2) = true := by decide
theorem test_aslZp_V42_4 : oneTick
    (storing [(0x0010#16, 0xFF#8)] (vecStart 0x8000#16 [0x06#8, 0x10#8]))
    (fun t => t.p = flags 0b100101#6 && memRead t.ram 0x0010 = 0xFE#8 && t.pc = 0x8002#16 && t.cyc = 5) = true := by decide
theorem test_lsrAcc_V42_6 : oneTick
    { vecStart 0x8000#16 [0x4A#8] with a := 0x01#8, p := flags 0b100100#6 }
    (fun t => t.a = 0x00#8 && t.p = flags 0b000111#6 && t.pc = 0x8001#16 && t.cyc = 2) = true := by decide
theorem test_lsrAbs_V42_7 : oneTick
    (storing [(0x4000#16, 0x80#8)] (vecStart 0x8000#16 [0x4E#8, 0x00#8, 0x40#8]))
    (fun t => t.p = flags 0b000100#6 && memRead t.xram 0x0000 = 0x40#8 && t.pc = 0x8003#16 && t.cyc = 6) = true := by decide
theorem test_rolAcc_V42_8 : oneTick
    { vecStart 0x8000#16 [0x2A#8] with a := 0x40#8, p := flags 0b000101#6 }
    (fun t => t.a = 0x81#8 && t.p = flags 0b100100#6 && t.pc = 0x8001#16 && t.cyc = 2) = true := by decide
theorem test_rorAcc_V42_11 : oneTick
    { vecStart 0x8000#16 [0x6A#8] with a := 0x02#8, p := flags 0b000101#6 }
    (fun t => t.a = 0x81#8 && t.p = flags 0b100100#6 && t.pc = 0x8001#16 && t.cyc = 2) = true := by decide
theorem test_rorAbx_V42_14 : oneTick
    { storing [(0x0300#16, 0x01#8)] (vecStart 0x8000#16 [0x7E#8, 0xFF#8, 0x02#8]) with x := 0x01#8, p := flags 0b000101#6 }
    (fun t => t.x = 0x01#8 && t.p = flags 0b100101#6 && memRead t.ram 0x0300 = 0x80#8 && t.pc = 0x8003#16 && t.cyc = 7) = true := by decide
theorem test_incZp_V42_15 : oneTick
    { storing [(0x0010#16, 0xFF#8)] (vecStart 0x8000#16 [0xE6#8, 0x10#8]) with p := flags 0b000101#6 }
    (fun t => t.p = flags 0b000111#6 && memRead t.ram 0x0010 = 0x00#8 && t.pc = 0x8002#16 && t.cyc = 5) = true := by decide
theorem test_incAbs_V42_17 : oneTick
    (storing [(0x9000#16, 0x7F#8)] (vecStart 0x8000#16 [0xEE#8, 0x00#8, 0x90#8]))
    (fun t => t.p = flags 0b100100#6 && t.pc = 0x8003#16 && t.cyc = 6) = true := by decide
theorem test_incAbs_V42_19 : oneTick
    { vecStart 0x8000#16 [0xEE#8, 0x00#8, 0x20#8] with vtu := { Vtu.powerOn with ctrl := 0x80#8 } }
    (fun t => t.p = flags 0b000100#6 && t.vtu.ctrl = 0x01#8 && t.vtu.t = 0x400#15 && t.pc = 0x8003#16 && t.cyc = 6) = true := by decide
theorem test_decZp_V42_21 : oneTick
    (storing [(0x0010#16, 0x00#8)] (vecStart 0x8000#16 [0xC6#8, 0x10#8]))
    (fun t => t.p = flags 0b100100#6 && memRead t.ram 0x0010 = 0xFF#8 && t.pc = 0x8002#16 && t.cyc = 5) = true := by decide
theorem test_decAbx_V42_22 : oneTick
    { storing [(0x0210#16, 0x80#8)] (vecStart 0x8000#16 [0xDE#8, 0x00#8, 0x02#8]) with x := 0x10#8 }
    (fun t => t.x = 0x10#8 && t.p = flags 0b000100#6 && memRead t.ram 0x0210 = 0x7F#8 && t.pc = 0x8003#16 && t.cyc = 7) = true := by decide
theorem test_inx_V42_24 : oneTick
    { vecStart 0x8000#16 [0xE8#8] with x := 0xFF#8 }
    (fun t => t.x = 0x00#8 && t.p = flags 0b000110#6 && t.pc = 0x8001#16 && t.cyc = 2) = true := by decide
theorem test_iny_V42_25 : oneTick
    { vecStart 0x8000#16 [0xC8#8] with y := 0xFF#8 }
    (fun t => t.y = 0x00#8 && t.p = flags 0b000110#6 && t.pc = 0x8001#16 && t.cyc = 2) = true := by decide
theorem test_dex_V42_27 : oneTick
    { vecStart 0x8000#16 [0xCA#8] with x := 0x00#8 }
    (fun t => t.x = 0xFF#8 && t.p = flags 0b100100#6 && t.pc = 0x8001#16 && t.cyc = 2) = true := by decide
theorem test_dey_V42_28 : oneTick
    { vecStart 0x8000#16 [0x88#8] with y := 0x00#8 }
    (fun t => t.y = 0xFF#8 && t.p = flags 0b100100#6 && t.pc = 0x8001#16 && t.cyc = 2) = true := by decide

/-! Branches, jumps, subroutines (2.4). -/

theorem test_beq_V43_3 : oneTick
    { vecStart 0x80FD#16 [0xF0#8, 0x02#8] with p := flags 0b000110#6 }
    (fun t => t.p = flags 0b000110#6 && t.pc = 0x8101#16 && t.cyc = 4) = true := by decide
theorem test_bne_V43_4 : oneTick
    (vecStart 0x8005#16 [0xD0#8, 0xFB#8])
    (fun t => t.p = flags 0b000100#6 && t.pc = 0x8002#16 && t.cyc = 3) = true := by decide
theorem test_bne_V43_5 : oneTick
    { vecStart 0x8005#16 [0xD0#8, 0xFB#8] with p := flags 0b000110#6 }
    (fun t => t.p = flags 0b000110#6 && t.pc = 0x8007#16 && t.cyc = 2) = true := by decide
theorem test_bmi_V43_6 : oneTick
    { vecStart 0x8000#16 [0x30#8, 0x10#8] with p := flags 0b100100#6 }
    (fun t => t.p = flags 0b100100#6 && t.pc = 0x8012#16 && t.cyc = 3) = true := by decide
theorem test_bpl_V43_7 : oneTick
    (vecStart 0x8003#16 [0x10#8, 0xFB#8])
    (fun t => t.p = flags 0b000100#6 && t.pc = 0x8000#16 && t.cyc = 3) = true := by decide
theorem test_bvc_V43_8 : oneTick
    { vecStart 0x8000#16 [0x50#8, 0x7F#8] with p := flags 0b010100#6 }
    (fun t => t.p = flags 0b010100#6 && t.pc = 0x8002#16 && t.cyc = 2) = true := by decide
theorem test_bvs_V43_9 : oneTick
    { vecStart 0x8000#16 [0x70#8, 0x7F#8] with p := flags 0b010100#6 }
    (fun t => t.p = flags 0b010100#6 && t.pc = 0x8081#16 && t.cyc = 3) = true := by decide
theorem test_bcc_V43_10 : oneTick
    (vecStart 0x8000#16 [0x90#8, 0x80#8])
    (fun t => t.p = flags 0b000100#6 && t.pc = 0x7F82#16 && t.cyc = 4) = true := by decide
theorem test_beq_V43_13 : oneTick
    { vecStart 0x80FE#16 [0xF0#8, 0xFD#8] with p := flags 0b000110#6 }
    (fun t => t.p = flags 0b000110#6 && t.pc = 0x80FD#16 && t.cyc = 4) = true := by decide
theorem test_bcc_V43_14 : oneTick
    (vecStart 0x000E#16 [0x90#8, 0x80#8])
    (fun t => t.p = flags 0b000100#6 && t.pc = 0xFF90#16 && t.cyc = 4) = true := by decide
theorem test_bcs_V43_2 : oneTick
    (vecStart 0x8000#16 [0xB0#8, 0x05#8])
    (fun t => t.p = flags 0b000100#6 && t.pc = 0x8002#16 && t.cyc = 2) = true := by decide
theorem test_jmpAbs_V43_15 : oneTick
    (vecStart 0x8000#16 [0x4C#8, 0x34#8, 0x12#8])
    (fun t => t.p = flags 0b000100#6 && t.pc = 0x1234#16 && t.cyc = 3) = true := by decide
theorem test_jmpInd_V43_17 : oneTick
    (storing [(0x0200#16, 0x34#8), (0x0201#16, 0x12#8)] (vecStart 0x8000#16 [0x6C#8, 0x00#8, 0x02#8]))
    (fun t => t.p = flags 0b000100#6 && t.pc = 0x1234#16 && t.cyc = 5) = true := by decide
theorem test_jmpInd_V43_18 : oneTick
    (storing [(0x02FF#16, 0x40#8), (0x0200#16, 0x80#8), (0x0300#16, 0x90#8)] (vecStart 0x8000#16 [0x6C#8, 0xFF#8, 0x02#8]))
    (fun t => t.p = flags 0b000100#6 && t.pc = 0x8040#16 && t.cyc = 5) = true := by decide
theorem test_jsr_V43_19 : oneTick
    (vecStart 0x8000#16 [0x20#8, 0x10#8, 0x80#8])
    (fun t => t.sp = 0xFB#8 && t.p = flags 0b000100#6 && memRead t.ram 0x01FC = 0x02#8 && memRead t.ram 0x01FD = 0x80#8 && t.pc = 0x8010#16 && t.cyc = 6) = true := by decide
theorem test_jsr_V43_20 : oneTick
    { vecStart 0x4000#16 [0x20#8, 0xCD#8, 0xAB#8] with sp := 0x00#8 }
    (fun t => t.sp = 0xFE#8 && t.p = flags 0b000100#6 && memRead t.ram 0x0100 = 0x40#8 && memRead t.ram 0x01FF = 0x02#8 && t.pc = 0xABCD#16 && t.cyc = 6) = true := by decide
theorem test_rts_V43_21 : oneTick
    { storing [(0x01FC#16, 0x02#8), (0x01FD#16, 0x80#8)] (vecStart 0x8000#16 [0x60#8]) with sp := 0xFB#8 }
    (fun t => t.sp = 0xFD#8 && t.p = flags 0b000100#6 && t.pc = 0x8003#16 && t.cyc = 6) = true := by decide
theorem test_rts_V43_23 : oneTick
    { storing [(0x0100#16, 0x33#8), (0x0101#16, 0x22#8)] (vecStart 0x8000#16 [0x60#8]) with sp := 0xFF#8 }
    (fun t => t.sp = 0x01#8 && t.p = flags 0b000100#6 && t.pc = 0x2234#16 && t.cyc = 6) = true := by decide

/-! Stack, flags, NOP, BRK, RTI (2.5). -/

theorem test_pha_V44_2 : oneTick
    { vecStart 0x8000#16 [0x48#8] with a := 0x42#8, sp := 0x00#8 }
    (fun t => t.a = 0x42#8 && t.sp = 0xFF#8 && t.p = flags 0b000100#6 && memRead t.ram 0x0100 = 0x42#8 && t.pc = 0x8001#16 && t.cyc = 3) = true := by decide
theorem test_php_V44_3 : oneTick
    { vecStart 0x8000#16 [0x08#8] with p := flags 0b000111#6 }
    (fun t => t.sp = 0xFC#8 && t.p = flags 0b000111#6 && memRead t.ram 0x01FD = 0x37#8 && t.pc = 0x8001#16 && t.cyc = 3) = true := by decide
theorem test_php_V44_5 : oneTick
    { vecStart 0x8000#16 [0x08#8] with p := flags 0b111111#6 }
    (fun t => t.sp = 0xFC#8 && t.p = flags 0b111111#6 && memRead t.ram 0x01FD = 0xFF#8 && t.pc = 0x8001#16 && t.cyc = 3) = true := by decide
theorem test_pla_V44_6 : oneTick
    { storing [(0x01FD#16, 0x42#8)] (vecStart 0x8000#16 [0x68#8]) with sp := 0xFC#8, a := 0xFF#8, p := flags 0b100100#6 }
    (fun t => t.sp = 0xFD#8 && t.a = 0x42#8 && t.p = flags 0b000100#6 && t.pc = 0x8001#16 && t.cyc = 4) = true := by decide
theorem test_pla_V44_7 : oneTick
    { storing [(0x0100#16, 0x00#8)] (vecStart 0x8000#16 [0x68#8]) with sp := 0xFF#8, a := 0xFF#8 }
    (fun t => t.sp = 0x00#8 && t.a = 0x00#8 && t.p = flags 0b000110#6 && t.pc = 0x8001#16 && t.cyc = 4) = true := by decide
theorem test_plp_V44_8 : oneTick
    { storing [(0x01FD#16, 0xC3#8)] (vecStart 0x8000#16 [0x28#8]) with sp := 0xFC#8 }
    (fun t => t.sp = 0xFD#8 && t.p = flags 0b110011#6 && t.pc = 0x8001#16 && t.cyc = 4) = true := by decide
theorem test_plp_V44_9 : oneTick
    { storing [(0x01FD#16, 0x00#8)] (vecStart 0x8000#16 [0x28#8]) with sp := 0xFC#8, p := flags 0b111111#6 }
    (fun t => t.sp = 0xFD#8 && t.p = flags 0b000000#6 && t.pc = 0x8001#16 && t.cyc = 4) = true := by decide
theorem test_clc_V44_11 : oneTick
    { vecStart 0x8000#16 [0x18#8] with p := flags 0b000101#6 }
    (fun t => t.p = flags 0b000100#6 && t.pc = 0x8001#16 && t.cyc = 2) = true := by decide
theorem test_sec_V44_12 : oneTick
    (vecStart 0x8000#16 [0x38#8])
    (fun t => t.p = flags 0b000101#6 && t.pc = 0x8001#16 && t.cyc = 2) = true := by decide
theorem test_cli_V44_13 : oneTick
    (vecStart 0x8000#16 [0x58#8])
    (fun t => t.p = flags 0b000000#6 && t.pc = 0x8001#16 && t.cyc = 2) = true := by decide
theorem test_sei_V44_14 : oneTick
    { vecStart 0x8000#16 [0x78#8] with p := flags 0b000000#6 }
    (fun t => t.p = flags 0b000100#6 && t.pc = 0x8001#16 && t.cyc = 2) = true := by decide
theorem test_clv_V44_15 : oneTick
    { vecStart 0x8000#16 [0xB8#8] with p := flags 0b010100#6 }
    (fun t => t.p = flags 0b000100#6 && t.pc = 0x8001#16 && t.cyc = 2) = true := by decide
theorem test_cld_V44_16 : oneTick
    { vecStart 0x8000#16 [0xD8#8] with p := flags 0b001100#6 }
    (fun t => t.p = flags 0b000100#6 && t.pc = 0x8001#16 && t.cyc = 2) = true := by decide
theorem test_sed_V44_17 : oneTick
    (vecStart 0x8000#16 [0xF8#8])
    (fun t => t.p = flags 0b001100#6 && t.pc = 0x8001#16 && t.cyc = 2) = true := by decide
theorem test_nop_V44_18 : oneTick
    (vecStart 0x8000#16 [0xEA#8])
    (fun t => t.p = flags 0b000100#6 && t.pc = 0x8001#16 && t.cyc = 2) = true := by decide
theorem test_brk_V44_19 : oneTick
    { storing [(0xFFFE#16, 0x00#8), (0xFFFF#16, 0x90#8)] (vecStart 0x8000#16 [0x00#8]) with p := flags 0b000001#6 }
    (fun t => t.sp = 0xFA#8 && t.p = flags 0b000101#6 && memRead t.ram 0x01FB = 0x31#8 && memRead t.ram 0x01FC = 0x02#8 && memRead t.ram 0x01FD = 0x80#8 && t.pc = 0x9000#16 && t.cyc = 7) = true := by decide
theorem test_brk_V44_20 : oneTick
    { storing [(0xFFFE#16, 0x34#8), (0xFFFF#16, 0x12#8)] (vecStart 0x4010#16 [0x00#8]) with sp := 0x01#8, p := flags 0b001100#6 }
    (fun t => t.sp = 0xFE#8 && t.p = flags 0b001100#6 && memRead t.ram 0x0100 = 0x12#8 && memRead t.ram 0x0101 = 0x40#8 && memRead t.ram 0x01FF = 0x3C#8 && t.pc = 0x1234#16 && t.cyc = 7) = true := by decide
theorem test_rti_V44_21 : oneTick
    { storing [(0x01FB#16, 0x31#8), (0x01FC#16, 0x02#8), (0x01FD#16, 0x80#8)] (vecStart 0x8000#16 [0x40#8]) with sp := 0xFA#8 }
    (fun t => t.sp = 0xFD#8 && t.p = flags 0b000001#6 && t.pc = 0x8002#16 && t.cyc = 6) = true := by decide
theorem test_rti_V44_22 : oneTick
    { storing [(0x01FB#16, 0xFB#8), (0x01FC#16, 0xFF#8), (0x01FD#16, 0xFF#8)] (vecStart 0x8000#16 [0x40#8]) with sp := 0xFA#8 }
    (fun t => t.sp = 0xFD#8 && t.p = flags 0b111011#6 && t.pc = 0xFFFF#16 && t.cyc = 6) = true := by decide

/-! Stops (95_test_vectors.md 2.1, 2.3, 2.6; 49-30; 20_memory.md R69, R91). -/

theorem test_sta_status_faults_V40_26 :
    stops (tick (vecStart 0x8000#16 [0x8D#8, 0x0A#8, 0x20#8])) (.readOnlyRegisterWrite 0x00#8 0x200A#16) = true := by decide
theorem test_inc_status_faults_V42_18 :
    stops (tick { vecStart 0x8000#16 [0xEE#8, 0x02#8, 0x20#8] with vtu := { Vtu.powerOn with status := 0x80#8 } }) (.readOnlyRegisterWrite 0x81#8 0x2002#16) = true := by decide
theorem test_undefined_opcode_V60_1 :
    stops (tick (vecStart 0x8000#16 [0x02#8])) (.illegalOpcode 0x02#8 0x8000#16) = true := by decide
theorem test_undefined_opcode_V60_6 :
    stops (tick (vecStart 0x8000#16 [0x9E#8])) (.illegalOpcode 0x9E#8 0x8000#16) = true := by decide
theorem test_step_stops_before_the_vtu_S10 :
    stops (step (vecStart 0x8000#16 [0x02#8])) (.illegalOpcode 0x02#8 0x8000#16) = true := by decide
theorem test_chr_out_of_range_V49_30 :
    stops (busRead 0x2007#16 (atV 0x0010#15 noChr)) (.chrOutOfRange 0x0010#14) = true := by decide
theorem test_rom_without_cartridge :
    stops (busRead 0x8000#16 noCart) (.missingCartridge 0x8000) = true := by decide
theorem test_bus_address_out_of_range :
    stops (busReadAt 0x10000 State.reset) (.busAddressOutOfRange 0x10000) = true := by decide

/-! The VTU's registers (95_test_vectors.md part 3). -/

theorem test_bus_mirroring_E6 : busOps [.w 0x0000#16 0x5A#8, .r 0x0800#16 0x5A#8, .r 0x1000#16 0x5A#8, .r 0x1800#16 0x5A#8]
    State.reset (fun t => t.ram = [(0, 0x5A#8)]) = true := by decide
theorem test_vtu_V49_4 : busOps [.w 0x2006#16 0x21#8, .w 0x2006#16 0x08#8, .w 0x2007#16 0xAA#8, .w 0x2007#16 0xBB#8]
    State.reset (fun t => t.vtu.v = 0x210A#15 && t.vtu.t = 0x2108#15 && t.vtu.nt = [(0x108, 0xAA#8), (0x109, 0xBB#8)]) =
    true := by decide
theorem test_vtu_V49_5 : busOps [.w 0x2000#16 0x04#8, .w 0x2006#16 0x20#8, .w 0x2006#16 0x00#8, .w 0x2007#16 0x11#8,
      .w 0x2007#16 0x22#8] State.reset
    (fun t => t.vtu.ctrl = 0x04#8 && t.vtu.v = 0x2040#15 && t.vtu.nt = [(0x000, 0x11#8), (0x020, 0x22#8)]) = true := by decide
theorem test_vtu_V49_6 : busOps [.w 0x2006#16 0x21#8, .w 0x2006#16 0x08#8, .r 0x2007#16 0x00#8, .r 0x2007#16 0xAA#8,
      .r 0x2007#16 0xBB#8]
    (State.reset.setVtu { Vtu.powerOn with nt := [(0x108, 0xAA#8), (0x109, 0xBB#8), (0x10A, 0xCC#8)] })
    (fun t => t.vtu.rbuf = 0xCC#8 && t.vtu.v = 0x210B#15) = true := by decide
theorem test_vtu_V49_7 : busOps [.w 0x2006#16 0x3F#8, .w 0x2006#16 0x01#8, .r 0x2007#16 0x2D#8, .r 0x2002#16 0x0D#8]
    (State.reset.setVtu { Vtu.powerOn with pal := [(0x01, 0x2D#8)] })
    (fun t => t.vtu.rbuf = 0x2D#8 && t.vtu.v = 0x3F02#15) = true := by decide
theorem test_vtu_V49_8 : busOps [.w 0x2006#16 0x3F#8, .w 0x2006#16 0x10#8, .w 0x2007#16 0x2D#8, .w 0x2006#16 0x3F#8,
      .w 0x2006#16 0x00#8, .r 0x2007#16 0x2D#8] State.reset (fun t => t.vtu.pal = [(0x00, 0x2D#8)]) = true := by decide
theorem test_vtu_V49_12 : busOps [.w 0x2005#16 0x7D#8, .w 0x2005#16 0x5E#8] State.reset
    (fun t => t.vtu.t = 0x616F#15 && t.vtu.v = 0#15 && t.vtu.w = false) = true := by decide
theorem test_vtu_V49_14 : busOps [.w 0x2005#16 0x08#8, .w 0x2006#16 0x34#8] State.reset
    (fun t => t.vtu.t = 0x0034#15 && t.vtu.v = 0x0034#15) = true := by decide
theorem test_vtu_V49_16 : busOps [.w 0x2006#16 0x21#8, .w 0x2006#16 0x00#8]
    (State.reset.setVtu { Vtu.powerOn with t := 0x616F#15 }) (fun t => t.vtu.t = 0x2100#15 && t.vtu.v = 0x2100#15) = true := by
  decide
theorem test_vtu_V49_17_then_18 : busOps [.w 0x2008#16 0x84#8, .w 0x3FFE#16 0x23#8, .w 0x3FFE#16 0x45#8, .w 0x3FFF#16 0x77#8]
    State.reset (fun t => t.vtu.ctrl = 0x84#8 && t.vtu.v = 0x2365#15 && t.vtu.nt = [(0x345, 0x77#8)]) = true := by decide
theorem test_vtu_V49_20 : busOps [.w 0x2007#16 0x05#8] (State.reset.setVtu { Vtu.powerOn with v := 0x7FE5#15, ctrl := 0x04#8 })
    (fun t => t.vtu.v = 0x0005#15 && t.vtu.pal = [(0x05, 0x05#8)]) = true := by decide
theorem test_vtu_V49_23 : busOps [.w 0x2006#16 0x20#8, .w 0x2006#16 0x05#8, .w 0x2007#16 0xAA#8, .w 0x2006#16 0x28#8,
      .w 0x2006#16 0x05#8, .r 0x2007#16 0x00#8, .r 0x2007#16 0xAA#8]
    (State.reset.setCart (some { blankCartridge with mirroring := .vertical })) (fun t => t.vtu.nt = [(0x005, 0xAA#8)]) =
    true := by decide
theorem test_vtu_V49_27 : busOps [.w 0x2003#16 0xFE#8, .w 0x2004#16 0x11#8, .w 0x2004#16 0x22#8, .w 0x2004#16 0x33#8,
      .r 0x2004#16 0x00#8, .r 0x2003#16 0x00#8] State.reset
    (fun t => t.vtu.oamAddr = 0x01#8 && t.vtu.oam = [(0x00, 0x33#8), (0xFE, 0x11#8), (0xFF, 0x22#8)]) = true := by decide
theorem test_vtu_V49_29 : busOps [.w 0x2006#16 0x00#8, .w 0x2006#16 0x10#8, .r 0x2007#16 0x00#8, .r 0x2007#16 0x5C#8,
      .w 0x2006#16 0x00#8, .w 0x2006#16 0x10#8, .w 0x2007#16 0xEE#8]
    (State.reset.setCart (some { blankCartridge with chr := [(0x0010, 0x5C#8)] }))
    (fun t => t.vtu.v = 0x0011#15 && t.cart = some { blankCartridge with chr := [(0x0010, 0x5C#8)] }) = true := by decide

/-! The counters at their edges (part 4.1), one tick each. -/

theorem test_clock_T1c : passes (tickClock (State.reset.setVtu { Vtu.powerOn with cycle := 340 }))
    (fun t => t.vtu.cycle = 0 && t.vtu.scanline = 1) = true := by decide
theorem test_clock_T1e : passes (tickClock (State.reset.setVtu { Vtu.powerOn with cycle := 340, scanline := 240 }))
    (fun t => t.vtu.cycle = 0 && t.vtu.scanline = 241 && t.vtu.status = 0x80#8 && t.sp = 0xFD#8) = true := by decide
theorem test_clock_T1h :
    passes (tickClock (State.reset.setVtu { Vtu.powerOn with cycle := 340, scanline := 261, status := 0x80#8 }))
    (fun t => t.vtu.cycle = 0 && t.vtu.scanline = 0 && t.vtu.status = 0x00#8) = true := by decide
theorem test_clock_T2b :
    passes (tickClock (storing [(0xFFFB#16, 0x90#8)]
      { vecStart 0x8000#16 [] with vtu := { Vtu.powerOn with cycle := 340, scanline := 240, ctrl := 0x80#8 } }))
    (fun t => t.vtu.scanline = 241 && t.vtu.status = 0x80#8 && t.sp = 0xFA#8 && t.pc = 0x9000#16 && t.cyc = 7 &&
      t.ram = [(0x1FB, 0x24#8), (0x1FD, 0x80#8)]) = true := by decide

/-! Signals (part 4.2). -/

/-- The start state of S3 to S9 with the given flags. -/
def sigStart (x : BitVec 6) : State :=
  storing [(0xFFFB#16, 0x90#8), (0xFFFF#16, 0xA0#8)] { State.reset with pc := 0x8123#16, cyc := 2, p := flags x }

theorem test_reset_S1 : passes (resetSignal (storing [(0xFFFC#16, 0x34#8), (0xFFFD#16, 0x12#8)]
      { State.reset with pc := 0x5555#16, a := 0x11#8, x := 0x22#8, y := 0x33#8, sp := 0x44#8, cyc := 3, p := flags 0b111011#6 }))
    (fun t => t.pc = 0x1234#16 && t.a = 0x11#8 && t.x = 0x22#8 && t.y = 0x33#8 && t.sp = 0x44#8 && t.p = flags 0b111111#6 &&
      t.cyc = 7) = true := by decide
theorem test_irq_S3 : passes (irq (sigStart 0b100001#6))
    (fun t => t.sp = 0xFA#8 && t.p = flags 0b100101#6 && t.pc = 0xA000#16 && t.cyc = 9 &&
      t.ram = [(0x1FB, 0xA1#8), (0x1FC, 0x23#8), (0x1FD, 0x81#8)]) = true := by decide
theorem test_irq_masked_S4 : 
    passes (irq (sigStart 0b100101#6)) (fun t => decide (t = sigStart 0b100101#6)) = true := by decide
theorem test_nmi_S5 : passes (nmi (sigStart 0b100101#6))
    (fun t => t.sp = 0xFA#8 && t.p = flags 0b100101#6 && t.pc = 0x9000#16 && t.cyc = 9 &&
      t.ram = [(0x1FB, 0xA5#8), (0x1FC, 0x23#8), (0x1FD, 0x81#8)]) = true := by decide
theorem test_signals_S7 : passes (signals [.irq, .nmi] (sigStart 0b000000#6))
    (fun t => t.sp = 0xF7#8 && t.pc = 0x9000#16 && t.cyc = 16 && memRead t.ram 0x1F8 = 0x24#8 &&
      memRead t.ram 0x1FA = 0xA0#8 && memRead t.ram 0x1FB = 0x20#8) = true := by decide
theorem test_signals_S8 : passes (signals [.nmi, .irq] (sigStart 0b000000#6))
    (fun t => t.sp = 0xFA#8 && t.pc = 0x9000#16 && t.cyc = 9 && memRead t.ram 0x1FB = 0x20#8) = true := by decide
theorem test_nmi_S9 : passes (nmi { sigStart 0b000010#6 with sp := 0x01#8 })
    (fun t => t.sp = 0xFE#8 && t.ram = [(0x100, 0x23#8), (0x101, 0x81#8), (0x1FF, 0x22#8)]) = true := by decide

/-! The interface: an instruction placed where the next fetch is runs in the very next step after reset. -/

theorem test_withFetchWord_runs_LDA : passes (step (State.reset.withFetchWord 16 0x42A9))
    (fun t => t.a = 0x42#8 && t.cyc = 2 && t.vtu.cycle = 3) = true := by decide
theorem test_withFetchWord_runs_operand_of_zeros : passes (step (State.reset.withFetchWord 8 0x4C))
    (fun t => t.pc = 0x0000#16 && t.cyc = 3) = true := by decide
theorem test_withFetchWord_moves_off_a_register :
    passes (step ((State.reset.setPc 0x2000#16).withFetchWord 8 0xE8)) (fun t => t.x = 0x01#8 && t.pc = 0x0201#16) = true := by
  decide
theorem test_launch_is_reset : 
    passes (launch (recommendedLaunch blankCartridge)) (fun t => decide (t = State.reset)) = true := by decide

/-! Witnesses: for each obligation with hypotheses, a concrete state and operands that meet all of them together, a boundary
value for each clause. -/

/-- The default start state at 0x8000 with an instruction there. -/
def ready (bytes : List Byte) : State := vecStart 0x8000#16 bytes

theorem witness_DecodeOfEncodeIsTheInstruction : (Instr.jmpInd 0xFFFF#16).wf = true := by decide
theorem witness_DecodedBytesAreTheEncoding : decode [0x6C#8, 0xFF#8, 0x02#8, 0xEA#8] = .ok (.jmpInd 0x02FF#16, [0xEA#8]) := by decide
theorem witness_UndefinedOpcodesStopTheMachine :
    Quiet (ready [0xFF#8]) ∧ (ready [0xFF#8]).cyc = 0 ∧ byteAt (ready [0xFF#8]) (ready [0xFF#8]).pc = some 0xFF#8 ∧
    0xFF#8 ∈ undefinedOpcodes := by decide
/-- An undefined byte that no store holds: `PC` at the status register, which answers VBlank. -/
theorem witness_UndefinedOpcodesStopTheMachine_port :
    let s := (vecStart 0x2002#16 []).setVtu { Vtu.powerOn with status := 0x80#8 }
    Quiet s ∧ s.cyc = 0 ∧ byteAt s s.pc = none ∧ (∃ t, busRead s.pc s = .next (0x80#8, t)) ∧ 0x80#8 ∈ undefinedOpcodes :=
  ⟨by decide, rfl, rfl, ⟨_, rfl⟩, by decide⟩
theorem witness_StepRunsTheDecodedInstruction_stored :
    Quiet (ready [0xAD#8, 0x02#8, 0x20#8]) ∧ (ready [0xAD#8, 0x02#8, 0x20#8]).cyc = 0 ∧ (Instr.ldaAbs 0x2002#16).wf = true ∧
    byteAt (ready [0xAD#8, 0x02#8, 0x20#8]) 0x8000#16 = some 0xAD#8 ∧
    byteAt (ready [0xAD#8, 0x02#8, 0x20#8]) 0x8001#16 = some 0x02#8 ∧
    byteAt (ready [0xAD#8, 0x02#8, 0x20#8]) 0x8002#16 = some 0x20#8 ∧
    encode (.ldaAbs 0x2002#16) = [0xAD#8, 0x02#8, 0x20#8] := by decide
/-- An instruction fetched from a VTU register, whose byte no store holds: 0x00 at register 0 is BRK. -/
theorem witness_StepRunsTheDecodedInstruction_fetched :
    Quiet (vecStart 0x2000#16 []) ∧ (vecStart 0x2000#16 []).cyc = 0 ∧
    ∃ f, fetchInstr { vecStart 0x2000#16 [] with hostCalls := (vecStart 0x2000#16 []).hostCalls.tail } = .next f ∧
      f.instr = .brk := ⟨by decide, rfl, _, rfl, rfl⟩
theorem witness_WaitingStepOnlyCountsDown : Quiet State.reset ∧ State.reset.cyc = 6 + 1 := by decide
theorem witness_HostCallsComeBeforeTheStep :
    (State.reset.setHostCalls [[.irq, .nmi], [.reset]]).fault = none ∧
    (State.reset.setHostCalls [[.irq, .nmi], [.reset]]).hostCalls = [.irq, .nmi] :: [[.reset]] := by decide
theorem witness_FaultIsFinal_recorded :
    (State.reset.setFault (some (.illegalOpcode 0x02#8 0x8000#16))).fault = some (.illegalOpcode 0x02#8 0x8000#16) := rfl
theorem witness_FaultIsFinal_stops : step (ready [0x02#8]) = .fault (.illegalOpcode 0x02#8 0x8000#16) := rfl
theorem witness_FaultIsFinal_completes : ∃ t, step State.reset = .next t := ⟨_, rfl⟩

/-! The bus. -/

theorem witness_BusReadCompletesExactlyWhenReadable :
    readable State.reset 0x1FFF#16 = true ∧ readable State.reset 0x2007#16 = true ∧ readable State.reset 0xFFFF#16 = true ∧
    readable noCart 0x7FFF#16 = true ∧ readable (atV 0x3F00#15 noCart) 0x3FFF#16 = true ∧
    (readable noCart 0x8000#16 = false ∧ 0x8000 ≤ (0x8000#16).toNat) ∧
    (readable (atV 0x3EFF#15 noCart) 0x3FFF#16 = false ∧ (0x3FFF#16).toNat < 0x8000 ∧ noCart.cart = none) ∧
    (readable (atV 0x1FFF#15 noChr) 0x2007#16 = false ∧ (0x2007#16).toNat < 0x8000 ∧ noChr.cart ≠ none) ∧
    readable (atV 0x2000#15 noChr) 0x2007#16 = true := by decide
theorem witness_BusWriteCompletesExactlyWhenWritable :
    writable State.reset 0x2003#16 = true ∧ writable State.reset 0xFFFF#16 = true ∧
    writable (atV 0x3F00#15 noCart) 0x2007#16 = true ∧
    (writable noCart 0x8000#16 = false ∧ 0x8000 ≤ (0x8000#16).toNat) ∧
    (writable State.reset 0x3FFA#16 = false ∧ (0x3FFA#16).toNat < 0x8000 ∧ (0x3FFA#16).toNat % 8 = 2) ∧
    (writable (atV 0x3EFF#15 noCart) 0x2007#16 = false ∧ (0x2007#16).toNat < 0x8000 ∧ (0x2007#16).toNat % 8 ≠ 2) := by decide
theorem witness_RamAndPlainRamHoldWhatIsStored :
    ((0x07FF#16).toNat < 0x2000 ∧ (0x1FFF#16).toNat < 0x2000 ∧ (0x07FF#16).toNat % 0x800 = (0x1FFF#16).toNat % 0x800) ∧
    (0x4000 ≤ (0x7FFF#16).toNat ∧ (0x7FFF#16).toNat < 0x8000) := by decide
theorem witness_RomWindowReadsBanksAndIgnoresWrites :
    (State.reset.cart = some blankCartridge ∧ 0x8000 ≤ (0x8000#16).toNat ∧ blankCartridge.prgBanks = .two) ∧
    ((State.reset.setCart (some { blankCartridge with prgBanks := .one })).cart =
      some { blankCartridge with prgBanks := .one } ∧ 0x8000 ≤ (0xFFFF#16).toNat) := by decide
theorem witness_RegisterWindowMirrorsEveryEightBytes :
    (0x2000 ≤ (0x2002#16).toNat ∧ (0x2002#16).toNat < 0x4000 ∧ 0x2000 ≤ (0x3FFA#16).toNat ∧ (0x3FFA#16).toNat < 0x4000 ∧
      (0x2002#16).toNat % 8 = (0x3FFA#16).toNat % 8 ∧ (0x2002#16).toNat % 8 = 2) ∧
    (0x2000 ≤ (0x2000#16).toNat ∧ (0x3FF8#16).toNat < 0x4000 ∧ (0x2000#16).toNat % 8 = (0x3FF8#16).toNat % 8 ∧
      (0x2000#16).toNat % 8 ≠ 2) := by decide
theorem witness_BusWriteChangesOnlyItsByte :
    (∃ t, busWrite 0x0000#16 0x5A#8 State.reset = .next t ∧ ¬ sameByte 0x0000#16 0x0001#16 ∧ (0x0000#16).toNat < 0x2000) ∧
    (∃ t, busWrite 0x2001#16 0x1E#8 State.reset = .next t ∧ 0x2000 ≤ (0x2001#16).toNat ∧ (0x2001#16).toNat < 0x4000) ∧
    (∃ t, busWrite 0x7FFF#16 0x5A#8 State.reset = .next t ∧ 0x4000 ≤ (0x7FFF#16).toNat ∧ (0x7FFF#16).toNat < 0x8000) ∧
    (∃ t, busWrite 0x8000#16 0x5A#8 State.reset = .next t ∧ 0x8000 ≤ (0x8000#16).toNat) :=
  ⟨⟨_, rfl, by decide, by decide⟩, ⟨_, rfl, by decide, by decide⟩, ⟨_, rfl, by decide, by decide⟩, ⟨_, rfl, by decide⟩⟩
theorem witness_BusReadHasOnlyTheListedSideEffects :
    (∃ v t, busRead 0x8000#16 (ready [0xEA#8]) = .next (v, t) ∧ byteAt (ready [0xEA#8]) 0x8000#16 = some 0xEA#8) ∧
    (∃ v t, busRead 0x3FF8#16 State.reset = .next (v, t) ∧ (0x3FF8#16).toNat % 8 ≠ 2 ∧ (0x3FF8#16).toNat % 8 ≠ 7) ∧
    (∃ v t, busRead 0x2007#16 State.reset = .next (v, t)) :=
  ⟨⟨_, _, rfl, by decide⟩, ⟨_, _, rfl, by decide, by decide⟩, ⟨_, _, rfl⟩⟩
theorem witness_WideBusAddressFaults : 0xFFFF < 0x10000 := by decide

/-! The forms over an addressing mode (LDA, LDX, LDY, ADC, SBC, AND, ORA, EOR, CMP, CPX, CPY, BIT read; STA, STX, STY store;
ASL, LSR, ROL, ROR, INC, DEC do both): the effective address answers, or stops. -/

theorem witness_reading_forms :
    readable State.reset (Safety.zpx.ea State.reset 0xFF#8) = true ∧
    readable State.reset (Safety.izy.ea State.reset 0x10#8) = true ∧
    readable State.reset (Safety.abs.ea State.reset 0xFFFF#16) = true ∧
    readable noChr (Safety.abs.ea noChr 0x2007#16) = false ∧ readable noCart (Safety.abx.ea noCart 0x8000#16) = false ∧
    readable (storing [(0x0011#16, 0x80#8)] noCart) (Safety.izx.ea (storing [(0x0011#16, 0x80#8)] noCart) 0x10#8) = false := by
  decide
theorem witness_storing_forms :
    writable State.reset (Safety.zp.ea State.reset 0x00#8) = true ∧
    writable State.reset (Safety.abs.ea State.reset 0x2002#16) = false ∧
    writable noCart (Safety.aby.ea noCart 0x8000#16) = false := by decide
theorem witness_modifying_forms :
    (readable State.reset 0x0000#16 = true ∧ ∃ v r, busRead 0x0000#16 State.reset = .next (v, r) ∧ writable r 0x0000#16 = true) ∧
    (readable State.reset 0x2002#16 = true ∧ ∃ v r, busRead 0x2002#16 State.reset = .next (v, r) ∧ writable r 0x2002#16 = false) ∧
    readable noCart 0x8000#16 = false :=
  ⟨⟨by decide, _, _, rfl, by decide⟩, ⟨by decide, _, _, rfl, by decide⟩, by decide⟩
theorem witness_StoresKeepEveryOtherByte :
    (∃ t, exec (.staZp 0x10#8) State.reset = .next t ∧ ¬ sameByte (Safety.zp.ea State.reset 0x10#8) 0x0011#16) ∧
    (∃ t, exec (.stxAbs 0x1FFF#16) State.reset = .next t ∧ (Safety.abs.ea State.reset 0x1FFF#16).toNat < 0x2000) ∧
    (∃ t, exec (.styAbs 0x7FFF#16) State.reset = .next t ∧ 0x4000 ≤ (Safety.abs.ea State.reset 0x7FFF#16).toNat ∧
      (Safety.abs.ea State.reset 0x7FFF#16).toNat < 0x8000) :=
  ⟨⟨_, rfl, by decide⟩, ⟨_, rfl, by decide⟩, ⟨_, rfl, by decide, by decide⟩⟩

/-! Branches, jumps, calls, the stack. -/

theorem witness_BranchesEveryCondition :
    (State.reset.p.c = false ∧ State.reset.p.z = false ∧ State.reset.p.n = false ∧ State.reset.p.v = false) ∧
    ((flags 0b111111#6).c = true ∧ (flags 0b111111#6).z = true ∧ (flags 0b111111#6).n = true ∧ (flags 0b111111#6).v = true) := by
  decide
/-- A pointer whose two bytes are readable, one whose second byte is not, one whose first is not. -/
theorem witness_JmpAbsoluteAndIndirect :
    (readable State.reset (0x02#8 ++ 0xFF#8) = true ∧ ∃ b r, busRead (0x02#8 ++ 0xFF#8) State.reset = .next (b, r) ∧
      readable r (0x02#8 ++ (0xFF#8 + 1#8)) = true) ∧
    (readable noChr (0x20#8 ++ 0x06#8) = true ∧ ∃ b r, busRead (0x20#8 ++ 0x06#8) noChr = .next (b, r) ∧
      readable r (0x20#8 ++ (0x06#8 + 1#8)) = false) ∧
    readable noCart 0x8000#16 = false :=
  ⟨⟨by decide, _, _, rfl, by decide⟩, ⟨by decide, _, _, rfl, by decide⟩, by decide⟩
theorem witness_CallThenReturnComesBack :
    ∃ t r : State, exec (.jsr 0x8010#16) State.reset = .next t ∧ r.sp = t.sp ∧ r.ram = t.ram := ⟨_, _, rfl, rfl, rfl⟩
theorem witness_StatusRoundTripsThroughTheStack :
    ∃ t r : State, exec .php State.reset = .next t ∧ r.sp = t.sp ∧ r.ram = t.ram := ⟨_, _, rfl, rfl, rfl⟩

/-! Interrupts and reset. -/

theorem witness_BrkEntersThroughTheIrqVector : State.reset.cart = some blankCartridge ∧ noCart.cart = none := by decide
theorem witness_IrqEntersUnlessMasked :
    State.reset.p.i = true ∧
    ((State.reset.setP (flags 0#6)).fault = none ∧ (State.reset.setP (flags 0#6)).p.i = false ∧
      (State.reset.setP (flags 0#6)).cart = some blankCartridge) ∧
    ((noCart.setP (flags 0#6)).fault = none ∧ (noCart.setP (flags 0#6)).p.i = false ∧ (noCart.setP (flags 0#6)).cart = none) := by
  decide
theorem witness_NmiIsNeverMasked :
    (State.reset.fault = none ∧ State.reset.cart = some blankCartridge) ∧ (noCart.fault = none ∧ noCart.cart = none) := by decide
theorem witness_RtiUndoesAnInterruptEntry :
    State.reset.fault = none ∧ State.reset.cart = some blankCartridge ∧
    ∃ t r : State, nmi State.reset = .next t ∧ r.sp = t.sp ∧ r.ram = t.ram := ⟨rfl, rfl, _, _, rfl, rfl, rfl⟩
theorem witness_ResetSignalLoadsPcSetsIAndCycles :
    (State.reset.fault = none ∧ State.reset.cart = some blankCartridge) ∧ (noCart.fault = none ∧ noCart.cart = none) := by decide

/-! The video timing unit. -/

theorem witness_port_addresses :
    ∀ k < 8, 0x2000 ≤ (BitVec.ofNat 16 (0x2000 + k)).toNat ∧ (BitVec.ofNat 16 (0x2000 + k)).toNat < 0x4000 ∧
      (BitVec.ofNat 16 (0x2000 + k)).toNat % 8 = k ∧ 0x2000 ≤ (BitVec.ofNat 16 (0x3FF8 + k)).toNat ∧
      (BitVec.ofNat 16 (0x3FF8 + k)).toNat < 0x4000 ∧ (BitVec.ofNat 16 (0x3FF8 + k)).toNat % 8 = k := by decide
theorem witness_TwoStepPortsShareOneToggle :
    State.reset.vtu.w = false ∧ (State.reset.setVtu { Vtu.powerOn with w := true }).vtu.w = true := by decide
theorem witness_DataPort_ranges :
    State.reset.cart = some blankCartridge ∧
    portVramAddr (atV 0x1FFF#15 State.reset) = 0x1FFF ∧ portVramAddr (atV 0x2000#15 State.reset) = 0x2000 ∧
    portVramAddr (atV 0x3EFF#15 State.reset) = 0x3EFF ∧ portVramAddr (atV 0x3F00#15 State.reset) = 0x3F00 ∧
    portVramAddr (atV 0x7FFF#15 State.reset) = 0x3FFF := by decide
/-- With graphics ROM, with none in nametable and palette space, palette space with no cartridge, and beyond the banks. -/
theorem witness_DataPortReadsAreDelayedExceptInPaletteSpace :
    0x1FFF < 0x2000 * blankCartridge.chrBanks ∧
    ((atV 0x2000#15 noChr).cart = some { blankCartridge with chrBanks := 0 } ∧
      0x2000 ≤ portVramAddr (atV 0x2000#15 noChr) ∧ 0x3F00 ≤ portVramAddr (atV 0x3F00#15 noChr)) ∧
    ((atV 0x3F00#15 noCart).cart = none ∧ 0x3F00 ≤ portVramAddr (atV 0x3F00#15 noCart)) ∧
    (portVramAddr (atV 0x0000#15 noChr) < 0x2000 ∧ 0x2000 * 0 ≤ portVramAddr (atV 0x0000#15 noChr)) := by decide
theorem witness_ClockTickCountsAndRaisesNmi :
    State.reset.fault = none ∧ ∀ c ∈ [(339, 261, false), (340, 0, false), (340, 239, false), (340, 241, true), (340, 240, false), (340, 240, true),
      (340, 261, true)],
      ({ Vtu.powerOn with cycle := c.1, scanline := c.2.1, ctrl := if c.2.2 then 0x80#8 else 0x00#8 } : Vtu).cycle ≤ 340 ∧
      c.2.1 ≤ 261 := by decide
theorem witness_FrameTimingAndOneNmiPerFrame :
    State.reset.fault = none ∧ State.reset.vtu.scanline = 0 ∧ State.reset.vtu.cycle = 0 ∧ 82180 < 89342 ∧ 82181 < 89342 ∧ 89341 < 89342 := by decide

/-- A header with no graphics bank. -/
def header (banks b6 b7 b12 : Byte) : List Byte :=
  [0x4E#8, 0x45#8, 0x53#8, 0x1A#8, banks, 0#8, b6, b7, 0#8, 0#8, 0#8, 0#8, b12, 0#8, 0#8, 0#8]

theorem tailAllowed_header (banks b6 b7 : Byte) (rest : List Byte) : tailAllowed (header banks b6 b7 0#8 ++ rest) := by
  right
  intro k h h'
  rcases (show k = 12 ∨ k = 13 ∨ k = 14 ∨ k = 15 by omega) with rfl | rfl | rfl | rfl <;> rfl

/-- No signature; a legacy header with a non-zero byte 12; a signature alone. -/
theorem witness_ImageLoaderRejectsAndBuilds_rejects :
    ¬ signed [] ∧
    (signed (header 1#8 0#8 0#8 1#8) ∧ 16 ≤ (header 1#8 0#8 0#8 1#8).length ∧ ¬ tailAllowed (header 1#8 0#8 0#8 1#8)) ∧
    (signed (signature ++ [1#8]) ∧ (signature ++ [1#8]).length < 16) :=
  ⟨by decide, ⟨rfl, by decide, fun h => by
    rcases h with h | h
    · exact absurd h (by decide)
    · exact absurd (h 12 (by decide) (by decide)) (by decide)⟩, rfl, by decide⟩
/-- One byte less than the header claims. -/
theorem witness_ImageLoaderRejectsAndBuilds_truncated :
    let image := header 1#8 0#8 0#8 0#8 ++ List.replicate 16383 0#8
    signed image ∧ 16 ≤ image.length ∧ tailAllowed image ∧ image.length < claimedLength image := by
  refine ⟨rfl, ?_, tailAllowed_header _ _ _ _, ?_⟩ <;> rw [List.length_append, List.length_replicate]
  · exact Nat.le_add_right 16 16383
  · exact Nat.lt_succ_self 16399
/-- No program bank, and three. -/
theorem witness_ImageLoaderRejectsAndBuilds_banks :
    let none := header 0#8 0#8 0#8 0#8 ++ []
    let three := header 3#8 0#8 0#8 0#8 ++ List.replicate 49152 0#8
    (signed none ∧ tailAllowed none ∧ claimedLength none ≤ none.length ∧ (none.getD 4 0#8).toNat = 0) ∧
    (signed three ∧ tailAllowed three ∧ claimedLength three ≤ three.length ∧ (three.getD 4 0#8).toNat = 3) := by
  refine ⟨⟨rfl, tailAllowed_header _ _ _ _, by decide, rfl⟩, rfl, tailAllowed_header _ _ _ _, ?_, rfl⟩
  rw [List.length_append, List.length_replicate]; exact Nat.le_refl 49168
/-- A legacy image with no trainer, and an extended one with a trainer and a non-zero byte 12. -/
theorem witness_ImageLoaderRejectsAndBuilds_builds :
    let plain := header 1#8 0#8 0#8 0#8 ++ List.replicate 16384 0#8
    let full := header 1#8 4#8 8#8 1#8 ++ List.replicate 16896 0#8
    (signed plain ∧ tailAllowed plain ∧ claimedLength plain ≤ plain.length ∧ (plain.getD 4 0#8).toNat = 1) ∧
    (signed full ∧ tailAllowed full ∧ claimedLength full ≤ full.length ∧ trainerLength full = 512 ∧
      full.getD 12 0#8 = 1#8 ∧ (full.getD 4 0#8).toNat = 1) := by
  refine ⟨⟨rfl, tailAllowed_header _ _ _ _, ?_, rfl⟩, rfl, .inl rfl, ?_, rfl, rfl, rfl⟩ <;>
    rw [List.length_append, List.length_replicate]
  · exact Nat.le_refl 16400
  · exact Nat.le_refl 16912

/-! The whole machine. -/

theorem witness_Inv : Inv State.reset :=
  ⟨memWf_nil _, memWf_nil _, memWf_nil _, memWf_nil _, memWf_nil _,
    fun c h => by cases h; exact test_wf_blank, by decide, by decide, by decide, rfl, rfl⟩
theorem witness_EveryStepKeepsTheInvariant : Inv State.reset ∧ ∃ t, step State.reset = .next t := ⟨witness_Inv, _, rfl⟩
theorem witness_CartridgeAndParametersNeverChange : ∃ t, step (ready [0xA9#8, 0x42#8]) = .next t := ⟨_, rfl⟩
theorem witness_OnlyTheListedInstructionsWriteEachRegister :
    mnemonicOf (.adcImm 0x50#8) = some .adc ∧ ∃ t, exec (.adcImm 0x50#8) State.reset = .next t := ⟨rfl, _, rfl⟩
theorem witness_DecimalFlagNeverChangesAResult :
    mnemonicOf (.sbcImm 0x01#8) = some .sbc ∧
    Mnemonic.sbc ∉ ([.php, .brk, .plp, .rti, .cld, .sed] : List Mnemonic) := by decide

end Sys2Proof.Tests
end

/-! PROOF. What every step keeps, the machine at a recorded fault, and a step with no call due taken apart. -/

namespace Sys2Proof.Machine

open Sys2Proof.Safety

/-! What every step keeps. -/

/-- The frame of the processor's operations keeps the machine invariant. -/
theorem Keeps.inv {s t : State} (h : Keeps s t) (hi : Inv s) : Inv t := by
  have stores : StoresWf t := h.stores ⟨hi.ram, hi.xram, hi.nt, hi.pal, hi.oam⟩
  have clears : ∀ b : Byte, withBit7 b false &&& 0x7F#8 = b &&& 0x7F#8 := by decide
  exact {
    ram := stores.ram, xram := stores.xram, nt := stores.nt, pal := stores.pal, oam := stores.oam
    cart := fun c hc => hi.cart c (h.cart ▸ hc)
    cycle := h.cycle ▸ hi.cycle
    scanline := h.scanline ▸ hi.scanline
    status := by rcases h.status with e | e <;> simp only [e, clears, hi.status]
    unused := h.unused hi.unused
    break_ := h.break_ hi.break_ }

/-- One counting step of the VTU keeps the machine invariant. -/
theorem count_inv {s : State} (hi : Inv s) : Inv (s.setVtu s.vtu.count) := by
  obtain ⟨frame, status⟩ := s.vtu.count_frame
  obtain ⟨cycle, scanline⟩ := Vtu.count_range hi.cycle hi.scanline
  have sets : ∀ (b : Byte) (on : Bool), withBit7 b on &&& 0x7F#8 = b &&& 0x7F#8 := by decide
  exact {
    ram := hi.ram, xram := hi.xram
    nt := by rw [State.setVtu_vtu, frame]; exact hi.nt
    pal := by rw [State.setVtu_vtu, frame]; exact hi.pal
    oam := by rw [State.setVtu_vtu, frame]; exact hi.oam
    cart := hi.cart, cycle := cycle, scanline := scanline
    status := by
      rw [State.setVtu_vtu]
      rcases status with e | ⟨on, e⟩ <;> simp only [e, sets, hi.status]
    unused := hi.unused, break_ := hi.break_ }

/-- Taking calls off the script keeps the machine invariant, which says nothing of the script. -/
theorem setHostCalls_inv {s : State} (calls : List (List Signal)) (hi : Inv s) : Inv (s.setHostCalls calls) :=
  ⟨hi.ram, hi.xram, hi.nt, hi.pal, hi.oam, hi.cart, hi.cycle, hi.scanline, hi.status, hi.unused, hi.break_⟩

section
variable {P : State → Prop}

/-- A predicate that the processor's frame and the VTU's count keep is kept by `k` VTU ticks. -/
theorem clockTicks_induction (keeps : ∀ {s t}, Keeps s t → P s → P t) (count : ∀ {s}, P s → P (s.setVtu s.vtu.count))
    {k : Nat} {s t : State} (h : clockTicks k s = .next t) (hs : P s) : P t := by
  induction k generalizing s with
  | zero => cases h; exact hs
  | succ k ih =>
    rw [clockTicks, Res.andThen_eq_next] at h
    obtain ⟨u, hu, ht⟩ := h
    refine ih ht ?_
    rcases tickClock_cases hu with ⟨-, rfl⟩ | ⟨-, hn⟩
    · exact count hs
    · exact keeps (nmi_keeps hn) (count hs)

/-- The one induction over a step: what the processor's frame, the VTU's count and taking the script's head keep, a step
keeps. -/
theorem step_induction (keeps : ∀ {s t}, Keeps s t → P s → P t) (count : ∀ {s}, P s → P (s.setVtu s.vtu.count))
    (script : ∀ {s} calls, P s → P (s.setHostCalls calls)) {s t : State} (h : step s = .next t) (hs : P s) : P t := by
  obtain ⟨-, s1, s2, h1, h2, h3⟩ := step_cases h
  have p1 : P s1 := keeps (signals_keeps h1) (script _ hs)
  exact clockTicks_induction keeps count h3 (keeps (tick_keeps h2) p1)

end

/-- No step changes the cartridge, the configuration or the fault record. -/
theorem step_fixed {s t : State} (h : step s = .next t) : t.cart = s.cart ∧ t.config = s.config ∧ t.fault = s.fault :=
  step_induction (P := fun u => u.cart = s.cart ∧ u.config = s.config ∧ u.fault = s.fault)
    (fun k ⟨cart, config, fault⟩ => ⟨k.cart.trans cart, k.config.trans config, k.fault.trans fault⟩)
    id (fun _ => id) h ⟨rfl, rfl, rfl⟩

/-! A recorded fault. -/

theorem step_of_fault {s : State} {f : Fault} (h : s.fault = some f) : step s = .fault f := by
  rw [step, runStep, h]

theorem advance_of_step_next {s t : State} (h : step s = .next t) : advance s = t := by
  rw [advance, show runStep s = .next t from h]

theorem advance_of_step_fault {s : State} {f : Fault} (h : step s = .fault f) : advance s = s.setFault (some f) := by
  rw [advance, show runStep s = .fault f from h]

/-- With a fault recorded the machine stands still. -/
theorem advance_of_fault {s : State} {f : Fault} (h : s.fault = some f) : advance s = s := by
  rw [advance_of_step_fault (step_of_fault h), ← h]
  rfl

theorem irq_of_fault {s : State} {f : Fault} (h : s.fault = some f) : irq s = .next s := by rw [irq, h]
theorem nmi_of_fault {s : State} {f : Fault} (h : s.fault = some f) : nmi s = .next s := by rw [nmi, h]
theorem resetSignal_of_fault {s : State} {f : Fault} (h : s.fault = some f) : resetSignal s = .next s := by
  rw [resetSignal, h]

/-! A step with no fault recorded and no host call due. -/

/-- With no call due, taking the host's calls only takes the script's head. -/
theorem takeHostCalls_quiet {s : State} (h : s.hostCalls.headD [] = []) :
    takeHostCalls s = .next (s.setHostCalls s.hostCalls.tail) := by
  rw [takeHostCalls]
  split
  · next e => rw [e, List.tail_nil, ← e]; rfl
  · next calls later e =>
    obtain rfl : calls = [] := by simpa only [e, List.headD_cons] using h
    rw [e]; rfl

theorem step_quiet {s : State} (h : Quiet s) : step s = masterStep (s.setHostCalls s.hostCalls.tail) := by
  obtain ⟨hf, hc⟩ := h
  rw [step, runStep, hf, takeHostCalls_quiet hc, Res.andThen_next]

/-- A step that starts an instruction: `exec` of what was fetched, the wait, three VTU ticks. -/
theorem step_of_fetch {s : State} {f : Fetched} (h : Quiet s) (hc : s.cyc = 0)
    (hf : fetchInstr (s.setHostCalls s.hostCalls.tail) = .next f) :
    step s = Res.andThen (exec f.instr f.state) fun t => clockTicks 3 (t.setCyc (waitOf f.row t.scratch)) := by
  have idle : (s.setHostCalls s.hostCalls.tail).cyc = 0 := hc
  rw [step_quiet h, masterStep, tick, idle, runInstr, hf, Res.andThen_next, Res.map_eq_andThen, Res.andThen_assoc]
  rfl

/-- The wait as `Obligations.StepRunsTheDecodedInstruction` writes it. -/
theorem waitOf_eq (row : OpRow) (k : Scratch) :
    waitOf row k = row.cycles + (if k.pageCrossed = true ∧ row.penalty = true then 1 else 0) + k.extra := by
  simp only [waitOf, Bool.and_eq_true]

/-- `Reset` with a cartridge and no fault: I, `PC` from the vector, `cyc`. -/
theorem resetSignal_of_cart {s : State} {c : Cartridge} (hf : s.fault = none) (hc : s.cart = some c) :
    resetSignal s = .next (((s.setP { s.p with i := true }).setPc
      (join (readPrg c (vecReset + 1#16)) (readPrg c vecReset))).setCyc 7) := by
  have cart : (s.setP { s.p with i := true }).cart = some c := hc
  rw [resetSignal, hf]
  simp only [read16_rom (a := vecReset) (by decide) (by decide) cart, Res.map_next]
  rfl

/-! Fetching stored bytes. -/

theorem fetch8_of_byteAt {s : State} {b : Byte} (h : byteAt s s.pc = some b) :
    fetch8 s = .next (b, s.setPc (s.pc + 1#16)) := by
  rw [fetch8, busRead_of_byteAt h, Res.map_next]

/-- The bytes stored from an address on are the given ones. -/
def StoredFrom (s : State) (a : Addr) (bytes : List Byte) : Prop :=
  ∀ (k : Nat) (b : Byte), bytes[k]? = some b → byteAt s (a + BitVec.ofNat 16 k) = some b

theorem add_one_add_ofNat (a : Addr) (k : Nat) : a + 1#16 + BitVec.ofNat 16 k = a + BitVec.ofNat 16 (k + 1) := by
  rw [BitVec.ofNat_add, BitVec.add_assoc, BitVec.add_comm (1#16)]

theorem storedFrom_cons {s : State} {a : Addr} {b : Byte} {bs : List Byte} (h : StoredFrom s a (b :: bs)) :
    byteAt s a = some b ∧ StoredFrom s (a + 1#16) bs := by
  refine ⟨by simpa using h 0 b rfl, fun k c hk => ?_⟩
  rw [add_one_add_ofNat]
  exact h (k + 1) c hk

/-- Fetching as many bytes as are stored from `PC` on answers them and leaves `PC` past them. -/
theorem fetchBytes_of_storedFrom {bytes : List Byte} {s : State} (h : StoredFrom s s.pc bytes) :
    fetchBytes bytes.length s = .next (bytes, s.setPc (s.pc + BitVec.ofNat 16 bytes.length)) := by
  induction bytes generalizing s with
  | nil => simp only [List.length_nil, fetchBytes, BitVec.add_zero]; rfl
  | cons b bs ih =>
    obtain ⟨first, later⟩ := storedFrom_cons h
    have tail := ih (s := s.setPc (s.pc + 1#16)) later
    rw [List.length_cons, fetchBytes, fetch8_of_byteAt first, Res.andThen_next, tail, Res.map_next, State.setPc_pc,
      add_one_add_ofNat]
    rfl

/-! Decoding what was encoded. -/

/-- The decoder on a three-byte encoding: the operand word is the two bytes it was cut into. -/
theorem decode_word {op : Byte} {row : OpRow} {make : Addr → Instr} (h : opRow op = some row) (hf : row.form = .word make)
    (w : Addr) (rest : List Byte) : decode (op :: loByte w :: hiByte w :: rest) = .ok (make w, rest) := by
  rw [decode, h]
  simp only [hf, join_hiByte_loByte]

set_option maxRecDepth 4000 in
/-- The decoder reads an instruction back from its encoding (30_encoding.md R100, R105): the word operands need the two bytes
joined, the others compute. -/
theorem decode_encode (i : Instr) (rest : List Byte) : decode (encode i ++ rest) = .ok (i, rest) := by
  cases i
  case ldaAbs | ldaAbx | ldaAby | ldxAbs | ldxAby | ldyAbs | ldyAbx | staAbs | staAbx | staAby | stxAbs | styAbs | adcAbs |
      adcAbx | adcAby | sbcAbs | sbcAbx | sbcAby | andAbs | andAbx | andAby | oraAbs | oraAbx | oraAby | eorAbs | eorAbx |
      eorAby | cmpAbs | cmpAbx | cmpAby | cpxAbs | cpyAbs | bitAbs | aslAbs | aslAbx | lsrAbs | lsrAbx | rolAbs | rolAbx |
      rorAbs | rorAbx | incAbs | incAbx | decAbs | decAbx | jmpAbs | jmpInd | jsr =>
    exact decode_word rfl rfl _ _
  all_goals rfl

set_option maxRecDepth 4000 in
/-- The first byte of every encoding has its row in the opcode map, and the row's operand bytes follow it. -/
theorem encodedLength (i : Instr) : Laws.EncodedLength.Statement i := by
  cases i <;> exact ⟨_, _, _, rfl, rfl, rfl, rfl⟩

/-- Where the encoding of an instruction is stored from `PC` on, the fetch answers that instruction, `PC` past its bytes. -/
theorem fetchInstr_of_storedFrom {s : State} {i : Instr} (h : StoredFrom s s.pc (encode i)) :
    ∃ row, (encode i).head? = some row.opcode ∧ opRow row.opcode = some row ∧ fetchInstr s = .next
      { row := row, instr := i
        state := (s.setPc (s.pc + BitVec.ofNat 16 (encode i).length)).setScratch { s.scratch with
          opcode := row.opcode, mode := row.mode, pageCrossed := false, extra := 0 } } := by
  obtain ⟨op, operands, row, he, hrow, rfl, hlen⟩ := encodedLength i
  have decoded : decode (row.opcode :: operands) = .ok (i, []) := by
    rw [← he, ← List.append_nil (encode i), decode_encode]
  rw [he] at h ⊢
  obtain ⟨first, later⟩ := storedFrom_cons h
  have rest := fetchBytes_of_storedFrom (s := s.setPc (s.pc + 1#16)) later
  refine ⟨row, rfl, hrow, ?_⟩
  rw [fetchInstr, fetch8_of_byteAt first, Res.andThen_next]
  simp only [hrow, ← hlen, rest, Res.andThen_next, decoded, State.setPc_pc, add_one_add_ofNat, List.length_cons]
  rfl

end Sys2Proof.Machine

/-! PROOF. What each instruction means, by mnemonic and shape: the one case split over `Instr` that the statements about all
instructions (O59, O60) share. -/

namespace Sys2Proof.Machine

open Sys2Proof.Safety

/-! The parts of a meaning. -/

/-- The addressing modes of the instructions that access memory at `EA`. -/
inductive EaMode : (State → Res State) → Prop
  | zeroPage (zp : Byte) : EaMode (zeroPage zp)
  | zeroPageX (zp : Byte) : EaMode (zeroPageX zp)
  | zeroPageY (zp : Byte) : EaMode (zeroPageY zp)
  | absolute (addr : Addr) : EaMode (absolute addr)
  | absoluteX (addr : Addr) : EaMode (absoluteX addr)
  | absoluteY (addr : Addr) : EaMode (absoluteY addr)
  | indexedIndirect (zp : Byte) : EaMode (indexedIndirect zp)
  | indirectIndexed (zp : Byte) : EaMode (indirectIndexed zp)

/-- An operation on a byte, run on A: the effect of `modifyA`. -/
def onA (op : Byte → Status → Byte × Status) (s : State) : State := (s.setA (op s.a s.p).1).setP (op s.a s.p).2
/-- The effect of `modifyX`. -/
def onX (op : Byte → Status → Byte × Status) (s : State) : State := (s.setX (op s.x s.p).1).setP (op s.x s.p).2
/-- The effect of `modifyY`. -/
def onY (op : Byte → Status → Byte × Status) (s : State) : State := (s.setY (op s.y s.p).1).setP (op s.y s.p).2

/-- The effects on registers and flags alone, each under its mnemonic. -/
inductive RegisterOp : Mnemonic → (State → State) → Prop
  | lda : RegisterOp .lda loadA
  | ldx : RegisterOp .ldx loadX
  | ldy : RegisterOp .ldy loadY
  | adc : RegisterOp .adc (combineA addCarry)
  | sbc : RegisterOp .sbc (combineA subCarry)
  | and : RegisterOp .and (combineA andByte)
  | ora : RegisterOp .ora (combineA orByte)
  | eor : RegisterOp .eor (combineA eorByte)
  | cmp : RegisterOp .cmp compareA
  | cpx : RegisterOp .cpx compareX
  | cpy : RegisterOp .cpy compareY
  | bit : RegisterOp .bit testA
  | tax : RegisterOp .tax fun s => (s.setX s.a).setP (setZN s.a s.p)
  | tay : RegisterOp .tay fun s => (s.setY s.a).setP (setZN s.a s.p)
  | txa : RegisterOp .txa fun s => (s.setA s.x).setP (setZN s.x s.p)
  | tya : RegisterOp .tya fun s => (s.setA s.y).setP (setZN s.y s.p)
  | tsx : RegisterOp .tsx fun s => (s.setX s.sp).setP (setZN s.sp s.p)
  | txs : RegisterOp .txs fun s => s.setSp s.x
  | asl : RegisterOp .asl (onA shiftLeft)
  | lsr : RegisterOp .lsr (onA shiftRight)
  | rol : RegisterOp .rol (onA rotateLeft)
  | ror : RegisterOp .ror (onA rotateRight)
  | inx : RegisterOp .inx (onX increment)
  | iny : RegisterOp .iny (onY increment)
  | dex : RegisterOp .dex (onX decrement)
  | dey : RegisterOp .dey (onY decrement)
  | clc : RegisterOp .clc fun s => s.setP { s.p with c := false }
  | sec : RegisterOp .sec fun s => s.setP { s.p with c := true }
  | cli : RegisterOp .cli fun s => s.setP { s.p with i := false }
  | sei : RegisterOp .sei fun s => s.setP { s.p with i := true }
  | clv : RegisterOp .clv fun s => s.setP { s.p with v := false }
  | cld : RegisterOp .cld fun s => s.setP { s.p with d := false }
  | sed : RegisterOp .sed fun s => s.setP { s.p with d := true }
  | nop : RegisterOp .nop fun s => s

/-- The register each storing mnemonic stores. -/
inductive StoredRegister : Mnemonic → (State → Byte) → Prop
  | sta : StoredRegister .sta State.a
  | stx : StoredRegister .stx State.x
  | sty : StoredRegister .sty State.y

/-- The operation of each read-modify-write mnemonic. -/
inductive ModifyOp : Mnemonic → (Byte → Status → Byte × Status) → Prop
  | asl : ModifyOp .asl shiftLeft
  | lsr : ModifyOp .lsr shiftRight
  | rol : ModifyOp .rol rotateLeft
  | ror : ModifyOp .ror rotateRight
  | inc : ModifyOp .inc increment
  | dec : ModifyOp .dec decrement

/-- The condition of each branch. -/
inductive BranchCondition : Mnemonic → (State → Bool) → Prop
  | bcc : BranchCondition .bcc fun s => !s.p.c
  | bcs : BranchCondition .bcs fun s => s.p.c
  | beq : BranchCondition .beq fun s => s.p.z
  | bne : BranchCondition .bne fun s => !s.p.z
  | bmi : BranchCondition .bmi fun s => s.p.n
  | bpl : BranchCondition .bpl fun s => !s.p.n
  | bvc : BranchCondition .bvc fun s => !s.p.v
  | bvs : BranchCondition .bvs fun s => s.p.v

/-- The meanings, each under its mnemonic. -/
inductive Meaning : Mnemonic → (State → Res State) → Prop
  | implied {m : Mnemonic} {effect : State → State} (he : RegisterOp m effect) : Meaning m fun s => .next (effect s)
  | immediate {m : Mnemonic} {effect : State → State} (he : RegisterOp m effect) (imm : Byte) :
      Meaning m (withImmediate imm effect)
  | operand {m : Mnemonic} {mode : State → Res State} {effect : State → State} (hm : EaMode mode)
      (he : RegisterOp m effect) : Meaning m (withOperand mode effect)
  | store {m : Mnemonic} {mode : State → Res State} {reg : State → Byte} (hm : EaMode mode) (hr : StoredRegister m reg) :
      Meaning m (storeRegister mode reg)
  | modify {m : Mnemonic} {mode : State → Res State} {op : Byte → Status → Byte × Status} (hm : EaMode mode)
      (ho : ModifyOp m op) : Meaning m (modifyMemory mode op)
  | branch {m : Mnemonic} {cond : State → Bool} (hc : BranchCondition m cond) (rel : Byte) :
      Meaning m fun s => branchIf (cond s) rel s
  | jmpAbs (addr : Addr) : Meaning .jmp (execJmpAbs addr)
  | jmpInd (ptr : Addr) : Meaning .jmp (execJmpInd ptr)
  | jsr (addr : Addr) : Meaning .jsr (execJsr addr)
  | rts : Meaning .rts execRts
  | pha : Meaning .pha execPha
  | php : Meaning .php execPhp
  | pla : Meaning .pla execPla
  | plp : Meaning .plp execPlp
  | brk : Meaning .brk execBrk
  | rti : Meaning .rti execRti

set_option maxRecDepth 4000 in
/-- Every instruction has a mnemonic, and a meaning under it. -/
theorem exec_meaning (i : Instr) : ∃ m, mnemonicOf i = some m ∧ Meaning m (exec i) := by
  cases i
  case jmpAbs addr => exact ⟨_, rfl, .jmpAbs addr⟩
  case jmpInd ptr => exact ⟨_, rfl, .jmpInd ptr⟩
  case jsr addr => exact ⟨_, rfl, .jsr addr⟩
  case rts => exact ⟨_, rfl, .rts⟩
  case pha => exact ⟨_, rfl, .pha⟩
  case php => exact ⟨_, rfl, .php⟩
  case pla => exact ⟨_, rfl, .pla⟩
  case plp => exact ⟨_, rfl, .plp⟩
  case brk => exact ⟨_, rfl, .brk⟩
  case rti => exact ⟨_, rfl, .rti⟩
  case tax | tay | txa | tya | tsx | txs | clc | sec | cli | sei | clv | cld | sed | nop | aslAcc | lsrAcc | rolAcc |
      rorAcc | inx | iny | dex | dey =>
    exact ⟨_, rfl, .implied (by constructor)⟩
  case adcImm | sbcImm | andImm | oraImm | eorImm | cmpImm | cpxImm | cpyImm | ldaImm | ldxImm | ldyImm =>
    exact ⟨_, rfl, .immediate (by constructor) _⟩
  case bcc | bcs | beq | bne | bmi | bpl | bvc | bvs => exact ⟨_, rfl, .branch (by constructor) _⟩
  case adcZp | sbcZp | andZp | oraZp | eorZp | cmpZp | cpxZp | cpyZp | bitZp | ldaZp | ldxZp | ldyZp =>
    exact ⟨_, rfl, .operand (.zeroPage _) (by constructor)⟩
  case adcZpx | sbcZpx | andZpx | oraZpx | eorZpx | cmpZpx | ldaZpx | ldyZpx =>
    exact ⟨_, rfl, .operand (.zeroPageX _) (by constructor)⟩
  case adcAbs | sbcAbs | andAbs | oraAbs | eorAbs | cmpAbs | cpxAbs | cpyAbs | bitAbs | ldaAbs | ldxAbs |
      ldyAbs =>
    exact ⟨_, rfl, .operand (.absolute _) (by constructor)⟩
  case adcAbx | sbcAbx | andAbx | oraAbx | eorAbx | cmpAbx | ldaAbx | ldyAbx =>
    exact ⟨_, rfl, .operand (.absoluteX _) (by constructor)⟩
  case adcAby | sbcAby | andAby | oraAby | eorAby | cmpAby | ldaAby | ldxAby =>
    exact ⟨_, rfl, .operand (.absoluteY _) (by constructor)⟩
  case adcIzx | sbcIzx | andIzx | oraIzx | eorIzx | cmpIzx | ldaIzx =>
    exact ⟨_, rfl, .operand (.indexedIndirect _) (by constructor)⟩
  case adcIzy | sbcIzy | andIzy | oraIzy | eorIzy | cmpIzy | ldaIzy =>
    exact ⟨_, rfl, .operand (.indirectIndexed _) (by constructor)⟩
  case ldxZpy => exact ⟨_, rfl, .operand (.zeroPageY _) (by constructor)⟩
  case staZp | stxZp | styZp => exact ⟨_, rfl, .store (.zeroPage _) (by constructor)⟩
  case staZpx | styZpx => exact ⟨_, rfl, .store (.zeroPageX _) (by constructor)⟩
  case staAbs | stxAbs | styAbs => exact ⟨_, rfl, .store (.absolute _) (by constructor)⟩
  case staAbx => exact ⟨_, rfl, .store (.absoluteX _) (by constructor)⟩
  case staAby => exact ⟨_, rfl, .store (.absoluteY _) (by constructor)⟩
  case staIzx => exact ⟨_, rfl, .store (.indexedIndirect _) (by constructor)⟩
  case staIzy => exact ⟨_, rfl, .store (.indirectIndexed _) (by constructor)⟩
  case stxZpy => exact ⟨_, rfl, .store (.zeroPageY _) (by constructor)⟩
  case aslZp | lsrZp | rolZp | rorZp | incZp | decZp => exact ⟨_, rfl, .modify (.zeroPage _) (by constructor)⟩
  case aslZpx | lsrZpx | rolZpx | rorZpx | incZpx | decZpx => exact ⟨_, rfl, .modify (.zeroPageX _) (by constructor)⟩
  case aslAbs | lsrAbs | rolAbs | rorAbs | incAbs | decAbs => exact ⟨_, rfl, .modify (.absolute _) (by constructor)⟩
  case aslAbx | lsrAbx | rolAbx | rorAbx | incAbx | decAbx => exact ⟨_, rfl, .modify (.absoluteX _) (by constructor)⟩

theorem meaning_of_mnemonic {i : Instr} {m : Mnemonic} (h : mnemonicOf i = some m) : Meaning m (exec i) := by
  obtain ⟨m', h', meaning⟩ := exec_meaning i
  obtain rfl : m' = m := Option.some.inj (h'.symm.trans h)
  exact meaning

end Sys2Proof.Machine

/-! PROOF. What an instruction writes, by its mnemonic (O59), and that D changes nothing (O60): one lemma per shape. -/

namespace Sys2Proof.Machine

open Sys2Proof.Safety

/-- A mode answers the state with another scratch, and does not stop. -/
theorem EaMode.scratchOnly {mode : State → Res State} (h : EaMode mode) : ScratchOnly mode := by
  cases h with
  | zeroPage zp => exact zeroPage_scratchOnly zp
  | zeroPageX zp => exact zeroPageX_scratchOnly zp
  | zeroPageY zp => exact zeroPageY_scratchOnly zp
  | absolute addr => exact absolute_scratchOnly addr
  | absoluteX addr => exact absoluteX_scratchOnly addr
  | absoluteY addr => exact absoluteY_scratchOnly addr
  | indexedIndirect zp => exact indexedIndirect_scratchOnly zp
  | indirectIndexed zp => exact indirectIndexed_scratchOnly zp

theorem ModifyOp.plainOp {m : Mnemonic} {op : Byte → Status → Byte × Status} (h : ModifyOp m op) : PlainOp op := by
  cases h with
  | asl => exact plainOp_shiftLeft
  | lsr => exact plainOp_shiftRight
  | rol => exact plainOp_rotateLeft
  | ror => exact plainOp_rotateRight
  | inc => exact plainOp_increment
  | dec => exact plainOp_decrement

/-! The mnemonics that write each piece of state (10_state.md R21, R22, R23, R25, R36). -/

def writersOfA : List Mnemonic := [.lda, .adc, .sbc, .and, .ora, .eor, .pla, .txa, .tya, .asl, .lsr, .rol, .ror]
def writersOfX : List Mnemonic := [.ldx, .tax, .tsx, .inx, .dex]
def writersOfY : List Mnemonic := [.ldy, .tay, .iny, .dey]
def writersOfSp : List Mnemonic := [.pha, .php, .pla, .plp, .jsr, .rts, .rti, .brk, .txs]
def writersOfC : List Mnemonic := [.adc, .sbc, .cmp, .cpx, .cpy, .asl, .rol, .lsr, .ror, .clc, .sec, .plp, .rti]
def writersOfI : List Mnemonic := [.cli, .sei, .plp, .rti, .brk]
def writersOfD : List Mnemonic := [.cld, .sed, .plp, .rti]
def writersOfV : List Mnemonic := [.adc, .sbc, .bit, .clv, .plp, .rti]
def keepersOfZN : List Mnemonic :=
  [.sta, .stx, .sty, .txs, .pha, .php, .jmp, .jsr, .rts, .nop, .bcc, .bcs, .beq, .bne, .bmi, .bpl, .bvc, .bvs, .brk,
    .clc, .sec, .cli, .sei, .clv, .cld, .sed]
def writersOfMemory : List Mnemonic :=
  [.sta, .stx, .sty, .asl, .lsr, .rol, .ror, .inc, .dec, .pha, .php, .jsr, .brk]

/-- The stored bytes: work RAM, plain RAM, and the VTU's three memories. -/
def storedBytes (s : State) : Memory × Memory × Memory × Memory × Memory :=
  (s.ram, s.xram, s.vtu.nt, s.vtu.pal, s.vtu.oam)

/-- From `s` to `t` nothing is written but what the mnemonic is listed for, and `cyc` not at all. -/
structure Writes (m : Mnemonic) (s t : State) : Prop where
  a : t.a = s.a ∨ m ∈ writersOfA
  x : t.x = s.x ∨ m ∈ writersOfX
  y : t.y = s.y ∨ m ∈ writersOfY
  sp : t.sp = s.sp ∨ m ∈ writersOfSp
  c : t.p.c = s.p.c ∨ m ∈ writersOfC
  i : t.p.i = s.p.i ∨ m ∈ writersOfI
  d : t.p.d = s.p.d ∨ m ∈ writersOfD
  v : t.p.v = s.p.v ∨ m ∈ writersOfV
  zn : (t.p.z, t.p.n) = (s.p.z, s.p.n) ∨ m ∉ keepersOfZN
  memory : storedBytes t = storedBytes s ∨ m ∈ writersOfMemory
  cyc : t.cyc = s.cyc

theorem eq_or_trans {α : Type} {P : Prop} {x y z : α} (h : y = x ∨ P) (h' : z = y ∨ P) : z = x ∨ P := by
  rcases h with rfl | h
  · exact h'
  · exact .inr h

section
variable {m : Mnemonic} {s t u : State}

theorem Writes.trans (h : Writes m s t) (h' : Writes m t u) : Writes m s u where
  a := eq_or_trans h.a h'.a
  x := eq_or_trans h.x h'.x
  y := eq_or_trans h.y h'.y
  sp := eq_or_trans h.sp h'.sp
  c := eq_or_trans h.c h'.c
  i := eq_or_trans h.i h'.i
  d := eq_or_trans h.d h'.d
  v := eq_or_trans h.v h'.v
  zn := eq_or_trans h.zn h'.zn
  memory := eq_or_trans h.memory h'.memory
  cyc := h'.cyc.trans h.cyc

/-- What keeps the registers, the flags and the stored bytes is a write of no mnemonic. -/
theorem Writes.of_same (ha : t.a = s.a) (hx : t.x = s.x) (hy : t.y = s.y) (hsp : t.sp = s.sp) (hp : t.p = s.p)
    (hm : storedBytes t = storedBytes s) (hc : t.cyc = s.cyc) : Writes m s t where
  a := .inl ha
  x := .inl hx
  y := .inl hy
  sp := .inl hsp
  c := .inl (by rw [hp])
  i := .inl (by rw [hp])
  d := .inl (by rw [hp])
  v := .inl (by rw [hp])
  zn := .inl (by rw [hp])
  memory := .inl hm
  cyc := hc

theorem Writes.refl (m : Mnemonic) (s : State) : Writes m s s := .of_same rfl rfl rfl rfl rfl rfl rfl

theorem setScratch_writes (k : Scratch) : Writes m s (s.setScratch k) := .of_same rfl rfl rfl rfl rfl rfl rfl
theorem setPc_writes (pc : Addr) : Writes m s (s.setPc pc) := .of_same rfl rfl rfl rfl rfl rfl rfl

theorem setA_writes (b : Byte) (h : m ∈ writersOfA := by decide) : Writes m s (s.setA b) :=
  { Writes.refl m s with a := .inr h }
theorem setX_writes (b : Byte) (h : m ∈ writersOfX := by decide) : Writes m s (s.setX b) :=
  { Writes.refl m s with x := .inr h }
theorem setY_writes (b : Byte) (h : m ∈ writersOfY := by decide) : Writes m s (s.setY b) :=
  { Writes.refl m s with y := .inr h }
theorem setSp_writes (b : Byte) (h : m ∈ writersOfSp := by decide) : Writes m s (s.setSp b) :=
  { Writes.refl m s with sp := .inr h }

/-- A flag not named at the use is unchanged by computation. -/
theorem setP_writes {p : Status} (c : p.c = s.p.c ∨ m ∈ writersOfC := by exact .inl rfl)
    (i : p.i = s.p.i ∨ m ∈ writersOfI := by exact .inl rfl) (d : p.d = s.p.d ∨ m ∈ writersOfD := by exact .inl rfl)
    (v : p.v = s.p.v ∨ m ∈ writersOfV := by exact .inl rfl)
    (zn : (p.z, p.n) = (s.p.z, s.p.n) ∨ m ∉ keepersOfZN := by exact .inl rfl) : Writes m s (s.setP p) :=
  { Writes.refl m s with c := c, i := i, d := d, v := v, zn := zn }

/-- A write of the stored bytes and nothing else, under a mnemonic listed for it. -/
theorem Writes.of_memory (ht : t = { s with ram := t.ram, xram := t.xram, vtu := t.vtu })
    (h : m ∈ writersOfMemory := by decide) : Writes m s t := by
  rw [ht]
  exact { Writes.refl m s with memory := .inr h }

/-- A bus read writes nothing: what it changes of the VTU is no stored byte. -/
theorem busRead_writes {a : Addr} {b : Byte} (h : busRead a s = .next (b, t)) : Writes m s t := by
  obtain ⟨frame, vtu, -⟩ := busRead_frame h
  have stored : storedBytes t = storedBytes s := by rw [storedBytes, vtu, frame]; rfl
  refine .of_same ?_ ?_ ?_ ?_ ?_ stored ?_ <;> rw [frame] <;> rfl

/-- A bus write changes the memories and the VTU alone. -/
theorem busWrite_frame {a : Addr} {b : Byte} (h : busWrite a b s = .next t) :
    t = { s with ram := t.ram, xram := t.xram, vtu := t.vtu } := by
  rcases busWrite_cases h with ⟨-, rfl⟩ | ⟨-, -, u, -, rfl⟩ | ⟨-, -, rfl⟩ | ⟨-, rfl⟩ <;> rfl

theorem busRead_p {a : Addr} {b : Byte} (h : busRead a s = .next (b, t)) : t.p = s.p := by
  rw [(busRead_frame h).1]; rfl

theorem busWrite_p {a : Addr} {b : Byte} (h : busWrite a b s = .next t) : t.p = s.p := by
  rw [busWrite_frame h]

/-- A word read writes nothing. -/
theorem readPair_writes {a b w : Addr} (h : readPair a b s = .next (w, t)) : Writes m s t := by
  rw [readPair, Res.andThen_eq_next] at h
  obtain ⟨⟨lo, r⟩, h1, h⟩ := h
  rw [Res.map_eq_next] at h
  obtain ⟨⟨hi, u⟩, h2, e⟩ := h
  cases e
  exact (busRead_writes h1).trans (busRead_writes h2)

theorem push_writes {b : Byte} (h : push b s = .next t) (hm : m ∈ writersOfMemory := by decide)
    (hs : m ∈ writersOfSp := by decide) : Writes m s t := by
  rw [push_eq] at h
  cases h
  exact (Writes.of_memory rfl hm).trans (setSp_writes _ hs)

theorem pushWord_writes {w : Addr} (h : pushWord w s = .next t) (hm : m ∈ writersOfMemory := by decide)
    (hs : m ∈ writersOfSp := by decide) : Writes m s t := by
  rw [pushWord, Res.andThen_eq_next] at h
  obtain ⟨u, hu, ht⟩ := h
  exact (push_writes hu hm hs).trans (push_writes ht hm hs)

/-! The effects and the meanings. -/

/-- Each effect on registers and flags writes what its mnemonic is listed for. -/
theorem RegisterOp.writes {effect : State → State} (h : RegisterOp m effect) (s : State) : Writes m s (effect s) := by
  cases h with
  | lda | and | ora | eor | txa | tya => exact (setA_writes _).trans (setP_writes (zn := .inr (by decide)))
  | ldx | tax | tsx | inx | dex => exact (setX_writes _).trans (setP_writes (zn := .inr (by decide)))
  | ldy | tay | iny | dey => exact (setY_writes _).trans (setP_writes (zn := .inr (by decide)))
  | adc | sbc =>
    exact (setA_writes _).trans (setP_writes (c := .inr (by decide)) (v := .inr (by decide)) (zn := .inr (by decide)))
  | asl | lsr | rol | ror =>
    exact (setA_writes _).trans (setP_writes (c := .inr (by decide)) (zn := .inr (by decide)))
  | cmp | cpx | cpy => exact setP_writes (c := .inr (by decide)) (zn := .inr (by decide))
  | bit => exact setP_writes (v := .inr (by decide)) (zn := .inr (by decide))
  | txs => exact setSp_writes _
  | clc | sec => exact setP_writes (c := .inr (by decide))
  | cli | sei => exact setP_writes (i := .inr (by decide))
  | cld | sed => exact setP_writes (d := .inr (by decide))
  | clv => exact setP_writes (v := .inr (by decide))
  | nop => exact .refl _ s

/-- The flags of a read-modify-write operation are among those its mnemonic is listed for. -/
theorem ModifyOp.flags_write {op : Byte → Status → Byte × Status} (h : ModifyOp m op) (b : Byte) (s : State) :
    Writes m s (s.setP (op b s.p).2) := by
  cases h with
  | asl | lsr | rol | ror => exact setP_writes (c := .inr (by decide)) (zn := .inr (by decide))
  | inc | dec => exact setP_writes (zn := .inr (by decide))

theorem StoredRegister.writesMemory {reg : State → Byte} (h : StoredRegister m reg) : m ∈ writersOfMemory := by
  cases h <;> decide

theorem ModifyOp.writesMemory {op : Byte → Status → Byte × Status} (h : ModifyOp m op) : m ∈ writersOfMemory := by
  cases h <;> decide

/-- A completed read-modify-write writes memory and the flags of its operation. -/
theorem modifyMemory_writes {mode : State → Res State} {op : Byte → Status → Byte × Status} (hm : EaMode mode)
    (ho : ModifyOp m op) (h : modifyMemory mode op s = .next t) : Writes m s t := by
  obtain ⟨ea, b, r, u, k, hr, hu, rfl⟩ := modifyMemory_cases hm.scratchOnly h
  have written : Writes m s (u.setScratch k) :=
    ((busRead_writes hr).trans (.of_memory (busWrite_frame hu) ho.writesMemory)).trans (setScratch_writes k)
  have flags : (u.setScratch k).p = s.p := (busWrite_p hu).trans (busRead_p hr)
  have op_flags := ho.flags_write b (u.setScratch k)
  rw [flags] at op_flags
  exact written.trans op_flags

/-- Each meaning that completes writes what its mnemonic is listed for. -/
theorem Meaning.writes {f : State → Res State} (hf : Meaning m f) (h : f s = .next t) : Writes m s t := by
  cases hf with
  | implied he => cases h; exact he.writes s
  | immediate he imm =>
    cases h
    exact ((setScratch_writes _).trans (setScratch_writes _)).trans (he.writes _)
  | operand hm he =>
    obtain ⟨ea, b, r, k, hr, -, rfl⟩ := withOperand_cases hm.scratchOnly h
    exact ((busRead_writes hr).trans (setScratch_writes k)).trans (he.writes _)
  | store hm hr =>
    obtain ⟨ea, b, u, k, hu, rfl⟩ := storeRegister_cases hm.scratchOnly h
    exact (Writes.of_memory (busWrite_frame hu) hr.writesMemory).trans (setScratch_writes k)
  | modify hm ho => exact modifyMemory_writes hm ho h
  | branch hc rel =>
    obtain ⟨pc, k, rfl⟩ := branchIf_cases h
    exact (setScratch_writes k).trans (setPc_writes pc)
  | jmpAbs addr => cases h; exact (setScratch_writes _).trans (setPc_writes _)
  | jmpInd ptr =>
    rw [execJmpInd, jumpTo, indirect, Res.map_map, Res.map_eq_next] at h
    obtain ⟨⟨w, u⟩, hu, rfl⟩ := h
    exact ((readPair_writes hu).trans (setScratch_writes _)).trans (setPc_writes _)
  | jsr addr =>
    rw [execJsr, absolute, Res.andThen_next, Res.map_eq_next] at h
    obtain ⟨u, hu, rfl⟩ := h
    exact ((setScratch_writes _).trans (pushWord_writes hu)).trans (setPc_writes _)
  | rts =>
    rw [execRts, pullWord_eq] at h
    cases h
    exact (setSp_writes _).trans (setPc_writes _)
  | pha => exact push_writes h
  | php => exact push_writes h
  | pla =>
    rw [execPla, pull_eq] at h
    cases h
    exact ((setSp_writes _).trans (setA_writes _)).trans (setP_writes (zn := .inr (by decide)))
  | plp =>
    rw [execPlp, pull_eq] at h
    cases h
    exact (setSp_writes _).trans (setP_writes (.inr (by decide)) (.inr (by decide)) (.inr (by decide)) (.inr (by decide))
      (.inr (by decide)))
  | brk =>
    rw [execBrk, enterInterrupt, Res.andThen_eq_next] at h
    obtain ⟨s1, h1, h⟩ := h
    rw [Res.andThen_eq_next] at h
    obtain ⟨s2, h2, h⟩ := h
    rw [Res.map_eq_next] at h
    obtain ⟨⟨w, s3⟩, h3, rfl⟩ := h
    have setsI : Writes .brk s2 (s2.setP { s2.p with i := true }) := setP_writes (i := .inr (by decide))
    exact ((((pushWord_writes h1).trans (push_writes h2)).trans setsI).trans (readPair_writes h3)).trans (setPc_writes _)
  | rti =>
    rw [execRti, returnFromInterrupt_eq] at h
    cases h
    have flags : Writes .rti s (s.setP (unpackP (memRead s.ram (0x100 + (s.sp + 1#8).toNat)))) :=
      setP_writes (.inr (by decide)) (.inr (by decide)) (.inr (by decide)) (.inr (by decide)) (.inr (by decide))
    exact (flags.trans (setSp_writes _)).trans (setPc_writes _)

end

/-! D changes nothing. -/

/-- Replace D. -/
def State.setD (s : State) (d : Bool) : State := s.setP { s.p with d := d }

/-- D changes nothing of what `f` does, and stands in the state it answers as it was given. -/
abbrev IgnoresD (f : State → Res State) : Prop := ∀ (d : Bool) (s : State), f (s.setD d) = (f s).map fun t => t.setD d

theorem IgnoresD.andThen {f g : State → Res State} (hf : IgnoresD f) (hg : IgnoresD g) :
    IgnoresD fun s => (f s).andThen g := by
  intro d s
  simp only [hf d s]
  cases f s with
  | next t => exact hg d t
  | fault e => rfl
  | refused e => rfl

theorem IgnoresD.next {effect : State → State} (h : ∀ d s, effect (s.setD d) = (effect s).setD d) :
    IgnoresD fun s => .next (effect s) :=
  fun d s => congrArg Host.Outcome.next (h d s)

theorem busRead_setD (a : Addr) (d : Bool) (s : State) :
    busRead a (s.setD d) = (busRead a s).map fun r => (r.1, r.2.setD d) := by
  rw [State.setD, busRead_setP]
  cases h : busRead a s with
  | next r => simp only [Res.map_next, State.setD, busRead_p h]
  | fault e => rfl
  | refused e => rfl

theorem busWrite_setD (a : Addr) (v : Byte) : IgnoresD (busWrite a v) := by
  intro d s
  rw [State.setD, busWrite_setP]
  cases h : busWrite a v s with
  | next t => simp only [Res.map_next, State.setD, busWrite_p h]
  | fault e => rfl
  | refused e => rfl

theorem readPair_setD (a b : Addr) (d : Bool) (s : State) :
    readPair a b (s.setD d) = (readPair a b s).map fun r => (r.1, r.2.setD d) := by
  rw [readPair, readPair, busRead_setD]
  cases busRead a s with
  | next r =>
    simp only [Res.map_next, Res.andThen_next, busRead_setD]
    cases busRead b r.2 <;> rfl
  | fault e => rfl
  | refused e => rfl

theorem EaMode.ignoresD {mode : State → Res State} (h : EaMode mode) : IgnoresD mode := by
  intro d s
  cases h with
  | indexedIndirect zp => rw [indexedIndirect_eq, indexedIndirect_eq]; rfl
  | indirectIndexed zp => rw [indirectIndexed_eq, indirectIndexed_eq]; rfl
  | _ => rfl

theorem loadOperand_ignoresD : IgnoresD loadOperand := by
  intro d s
  rw [loadOperand, loadOperand, show (s.setD d).scratch = s.scratch from rfl, busRead_setD, Res.map_map, Res.map_map]
  rfl

section
variable {m : Mnemonic}

/-- Every effect on registers and flags but CLD's and SED's. -/
theorem RegisterOp.setD {effect : State → State} (h : RegisterOp m effect) (hm : m ∉ [.cld, .sed]) (d : Bool) (s : State) :
    effect (s.setD d) = (effect s).setD d := by
  cases h with
  | cld => exact absurd hm (by decide)
  | sed => exact absurd hm (by decide)
  | _ => rfl

theorem StoredRegister.setD {reg : State → Byte} (h : StoredRegister m reg) (d : Bool) (s : State) :
    reg (s.setD d) = reg s := by
  cases h <;> rfl

theorem BranchCondition.setD {cond : State → Bool} (h : BranchCondition m cond) (d : Bool) (s : State) :
    cond (s.setD d) = cond s := by
  cases h <;> rfl

/-- The store of a storing form, once `EA` is known. -/
theorem StoredRegister.ignoresD {reg : State → Byte} (h : StoredRegister m reg) :
    IgnoresD fun s => busWrite s.scratch.ea (reg s) s := by
  intro d s
  simp only [h.setD]
  exact busWrite_setD _ _ d s

/-- The write and the flags of a read-modify-write form, once the operand is read. -/
theorem ModifyOp.ignoresD {op : Byte → Status → Byte × Status} (h : ModifyOp m op) :
    IgnoresD fun s => busWrite s.scratch.ea (op s.scratch.m s.p).1 (s.setP (op s.scratch.m s.p).2) := by
  intro d s
  show busWrite s.scratch.ea (op s.scratch.m { s.p with d := d }).1
    ((s.setD d).setP (op s.scratch.m { s.p with d := d }).2) = _
  rw [h.plainOp.decimal]
  exact busWrite_setD _ _ d (s.setP (op s.scratch.m s.p).2)

theorem branchIf_ignoresD (cond : Bool) (rel : Byte) : IgnoresD (branchIf cond rel) := by
  intro d s
  cases cond <;> rfl

/-- D changes nothing of a meaning, but of those that push it and those that write it. -/
theorem Meaning.ignoresD {f : State → Res State} (hf : Meaning m f) (h : m ∉ [.php, .brk, .plp, .rti, .cld, .sed]) :
    IgnoresD f := by
  have keeps : m ∉ [.cld, .sed] := fun hm => h (List.mem_append_right ([.php, .brk, .plp, .rti] : List Mnemonic) hm)
  cases hf with
  | implied he => exact .next (he.setD keeps)
  | immediate he imm => exact .next fun d s => he.setD keeps d (Machine.immediate imm s)
  | operand hm he => exact hm.ignoresD.andThen (loadOperand_ignoresD.andThen (.next (he.setD keeps)))
  | store hm hr => exact hm.ignoresD.andThen hr.ignoresD
  | modify hm ho => exact hm.ignoresD.andThen (loadOperand_ignoresD.andThen ho.ignoresD)
  | branch hc rel =>
    intro d s
    simp only [hc.setD]
    exact branchIf_ignoresD _ rel d s
  | jmpAbs addr => intro d s; rfl
  | jmpInd ptr =>
    intro d s
    simp only [execJmpInd, jumpTo, indirect, readPair_setD, Res.map_map]
    rfl
  | jsr addr =>
    intro d s
    simp only [execJsr, absolute, Res.andThen_next, pushWord_eq]
    rfl
  | rts => intro d s; rw [execRts, execRts, pullWord_eq, pullWord_eq]; rfl
  | pha => intro d s; rw [execPha, execPha, push_eq, push_eq]; rfl
  | pla => intro d s; rw [execPla, execPla, pull_eq, pull_eq]; rfl
  | php | plp | brk | rti => exact absurd h (by decide)

end

end Sys2Proof.Machine

/-! PROOF. The statements about the state (10_state.md), settled. -/

namespace Sys2Proof.Proofs

open Sys2Proof.Machine Sys2Proof.Safety

/-- Settles O57: the processor's frame (`Keeps`), the VTU's count and the script each keep the invariant. -/
theorem everyStepKeepsTheInvariant : Obligations.EveryStepKeepsTheInvariant := by
  intro s t hi h
  exact step_induction Keeps.inv count_inv setHostCalls_inv h hi

/-- Settles O8: a recorded fault stops every operation, and a step that faults records it. -/
theorem faultIsFinal : Obligations.FaultIsFinal := by
  refine ⟨fun s f h => ?_, fun s f h => ?_, fun s t h => ?_⟩
  · exact ⟨step_of_fault h, advance_of_fault h, irq_of_fault h, nmi_of_fault h, resetSignal_of_fault h⟩
  · have recorded : (advance s).fault = some f := by rw [advance_of_step_fault h, State.setFault_fault]
    exact ⟨recorded, advance_of_fault recorded⟩
  · obtain ⟨-, -, fault⟩ := step_fixed h
    exact ⟨advance_of_step_next h, fault.trans (step_cases h).1⟩

/-- Settles O58: by the induction over a step, and the fault test with which a step begins. -/
theorem cartridgeAndParametersNeverChange : Obligations.CartridgeAndParametersNeverChange := by
  intro s t h
  obtain ⟨cart, config, fault⟩ := step_fixed h
  exact ⟨cart, config, fault.trans (step_cases h).1⟩

/-- Settles O59: each mnemonic's writes, by the shape of its meaning, and the frame of every instruction. -/
theorem onlyTheListedInstructionsWriteEachRegister : Obligations.OnlyTheListedInstructionsWriteEachRegister := by
  intro i m s t hm h
  have w := (meaning_of_mnemonic hm).writes h
  have k := exec_keeps h
  have zn := w.zn
  have memory := w.memory
  simp only [storedBytes, Prod.mk.injEq] at zn memory
  exact ⟨w.a, w.x, w.y, w.sp, w.c, w.i, w.d, w.v, zn, memory, w.cyc, k.fault, k.cart, k.config, k.hostCalls, k.cycle,
    k.scanline⟩

/-- Settles O60: by the shape of each meaning. -/
theorem decimalFlagNeverChangesAResult : Obligations.DecimalFlagNeverChangesAResult := by
  intro i m s d hm h
  exact (meaning_of_mnemonic hm).ignoresD h d s

/-- Settles O5: the stored bytes are fetched as the instruction they encode, and a fetched instruction is run. -/
theorem stepRunsTheDecodedInstruction : Obligations.StepRunsTheDecodedInstruction := by
  refine ⟨fun s i hq hc _ stored => ?_, fun s f hq hc hf => ?_⟩
  · obtain ⟨row, head, hrow, hf⟩ :=
      fetchInstr_of_storedFrom (s := s.setHostCalls s.hostCalls.tail) (i := i) stored
    refine ⟨row, head, hrow, ?_⟩
    rw [step_of_fetch hq hc hf]
    simp only [waitOf_eq]
    rfl
  · rw [step_of_fetch hq hc hf]
    simp only [waitOf_eq]
    rfl

/-- Settles O6: the step is the tick of the state with the script's head taken, and that tick only counts down. -/
theorem waitingStepOnlyCountsDown : Obligations.WaitingStepOnlyCountsDown := by
  intro s c hq hc
  have waiting : (s.setHostCalls s.hostCalls.tail).cyc = c + 1 := hc
  rw [step_quiet hq, masterStep, tick, waiting, Res.andThen_next]
  rfl

/-- Settles O46: `Reset` with the cartridge inserted reads the vector word and writes nothing but I, `PC` and `cyc`. -/
theorem launchStateHoldsTheParameters : Obligations.LaunchStateHoldsTheParameters := by
  refine ⟨fun l => ?_, rfl⟩
  have word : join (readPrg l.cart (vecReset + 1#16)) (readPrg l.cart vecReset) = vectorWord l.cart 4 :=
    vector_eq_vectorWord rfl (by decide) (by decide)
  refine ⟨_, by rw [launch, resetSignal_of_cart rfl rfl], word, ?_⟩
  exact ⟨rfl, rfl, rfl, rfl, rfl, rfl, rfl, rfl, rfl, rfl, rfl, rfl, rfl, rfl, rfl, rfl, rfl, rfl, rfl, rfl, rfl, rfl, rfl, rfl⟩

/-- Settles O56: the memories list nothing, the counters and the status register are zero. -/
theorem invariantHoldsAtReset : Obligations.InvariantHoldsAtReset where
  ram := memWf_nil _
  xram := memWf_nil _
  nt := memWf_nil _
  pal := memWf_nil _
  oam := memWf_nil _
  cart := fun c h => by cases h; exact ⟨memWf_nil _, memWf_nil _, memWf_nil _⟩
  cycle := by decide
  scanline := by decide
  status := rfl
  unused := rfl
  break_ := rfl

end Sys2Proof.Proofs

/-! PROOF. The bus: the stored byte behind an address, what each port and the VTU's own memory answer, and when an access
completes (20_memory.md R60 to R91). -/

namespace Sys2Proof.Machine

open Sys2Proof.Safety

/-! The stored byte behind an address. -/

/-- The stored bytes of the bus are work RAM, plain RAM and the cartridge: the VTU holds none of them. -/
theorem byteAt_setVtu (s : State) (u : Vtu) (b : Addr) : byteAt (s.setVtu u) b = byteAt s b := rfl

theorem byteAt_setRam (s : State) (m : Memory) (b : Addr) :
    byteAt (s.setRam m) b = if b.toNat < 0x2000 then some (memRead m (b.toNat % 0x800)) else byteAt s b := by
  by_cases h : b.toNat < 0x2000
  · rw [byteAt, if_pos h, if_pos h, State.setRam_ram]
  · rw [byteAt, byteAt, if_neg h, if_neg h, if_neg h]; rfl

theorem byteAt_xram {s : State} {b : Addr} (h : 0x4000 ≤ b.toNat) (h' : b.toNat < 0x8000) :
    byteAt s b = some (memRead s.xram (b.toNat - 0x4000)) := by
  rw [byteAt, if_neg (by omega), if_neg (by omega), if_pos h']

theorem byteAt_setXram_other {s : State} {b : Addr} (m : Memory) (h : ¬ (0x4000 ≤ b.toNat ∧ b.toNat < 0x8000)) :
    byteAt (s.setXram m) b = byteAt s b := by
  rcases region_cases b with hr | ⟨hr, hr'⟩ | hr | hr
  · simp only [byteAt, if_pos hr]; rfl
  · simp only [byteAt, if_neg (Nat.not_lt.mpr hr), if_pos hr']
  · exact absurd hr h
  · simp only [byteAt, if_neg (show ¬ b.toNat < 0x2000 by omega), if_neg (show ¬ b.toNat < 0x4000 by omega),
      if_neg (Nat.not_lt.mpr hr)]
    rfl

/-- A byte written in work RAM is the stored byte at the mirrors of its address, and no other stored byte changes. -/
theorem byteAt_setRam_memWrite {s : State} {a b : Addr} {v : Byte} (ha : a.toNat < 0x2000) :
    byteAt (s.setRam (memWrite s.ram (a.toNat % 0x800) v)) b = if sameByte a b then some v else byteAt s b := by
  rw [byteAt_setRam]
  by_cases hb : b.toNat < 0x2000
  · rw [if_pos hb, memRead_memWrite]
    by_cases same : b.toNat % 0x800 = a.toNat % 0x800
    · rw [if_pos same, if_pos (show sameByte a b from .inr ⟨ha, hb, same.symm⟩)]
    · rw [if_neg same, if_neg (show ¬ sameByte a b from ?_), byteAt, if_pos hb]
      rintro (rfl | ⟨-, -, e⟩)
      · exact same rfl
      · exact same e.symm
  · rw [if_neg hb, if_neg (show ¬ sameByte a b from ?_)]
    rintro (rfl | ⟨-, hb', -⟩)
    · exact hb ha
    · exact hb hb'

/-- A byte written in plain RAM is the stored byte at its own address, and no other stored byte changes. -/
theorem byteAt_setXram_memWrite {s : State} {a b : Addr} {v : Byte} (ha : 0x4000 ≤ a.toNat) (ha' : a.toNat < 0x8000) :
    byteAt (s.setXram (memWrite s.xram (a.toNat - 0x4000) v)) b = if a = b then some v else byteAt s b := by
  by_cases hb : 0x4000 ≤ b.toNat ∧ b.toNat < 0x8000
  · rw [byteAt_xram hb.1 hb.2, byteAt_xram hb.1 hb.2, State.setXram_xram]
    by_cases e : a = b
    · rw [if_pos e, e, memRead_memWrite_same]
    · have apart : b.toNat - 0x4000 ≠ a.toNat - 0x4000 := fun h => e (BitVec.eq_of_toNat_eq (by omega))
      rw [if_neg e, memRead_memWrite_other apart]
  · rw [byteAt_setXram_other _ hb, if_neg (by rintro rfl; exact hb ⟨ha, ha'⟩)]

/-! The VTU's own address space, by range (49_video_timing_unit.md R270, R271). -/

section
variable {cart : Option Cartridge} {c : Cartridge} {cfg : Config} {u : Vtu} {a : VAddr}

theorem vramRead_palette (h : 0x3F00 ≤ a.toNat) : vramRead cart cfg u a = .next (memRead u.pal (palIndex a)) :=
  if_neg (Nat.not_lt.mpr h)

theorem vramRead_no_cart (h : a.toNat < 0x3F00) : vramRead none cfg u a = .fault (.missingCartridge a.toNat) :=
  if_pos h

theorem vramRead_nametable (h : 0x2000 ≤ a.toNat) (h' : a.toNat < 0x3F00) :
    vramRead (some c) cfg u a = .next (memRead u.nt (ntIndex cfg.ntFold c.mirroring a)) := by
  rw [vramRead, if_pos (show a.toNat < palBase from h')]
  exact if_neg (Nat.not_lt.mpr h)

theorem vramRead_pattern (h : a.toNat < 0x2000) : vramRead (some c) cfg u a = readChr c a := by
  rw [vramRead, if_pos (show a.toNat < palBase from h.trans (by decide))]
  exact if_pos h

theorem readChr_inside (h : a.toNat < 0x2000 * c.chrBanks) : readChr c a = .next (memRead c.chr a.toNat) := if_pos h

theorem readChr_outside (h : ¬ a.toNat < 0x2000 * c.chrBanks) : readChr c a = .fault (.chrOutOfRange a) := if_neg h

theorem vramWrite_palette (v : Byte) (h : 0x3F00 ≤ a.toNat) :
    vramWrite cart cfg u a v = .next { u with pal := memWrite u.pal (palIndex a) v } :=
  if_neg (Nat.not_lt.mpr h)

theorem vramWrite_no_cart (v : Byte) (h : a.toNat < 0x3F00) :
    vramWrite none cfg u a v = .fault (.missingCartridge a.toNat) :=
  if_pos h

theorem vramWrite_nametable (v : Byte) (h : 0x2000 ≤ a.toNat) (h' : a.toNat < 0x3F00) :
    vramWrite (some c) cfg u a v =
      .next { u with nt := memWrite u.nt (ntIndex cfg.ntFold c.mirroring a) v } := by
  rw [vramWrite, if_pos (show a.toNat < palBase from h')]
  exact if_neg (Nat.not_lt.mpr h)

theorem vramWrite_pattern (v : Byte) (h : a.toNat < 0x2000) : vramWrite (some c) cfg u a v = .next u := by
  rw [vramWrite, if_pos (show a.toNat < palBase from h.trans (by decide))]
  exact if_pos h

/-! The ports. -/

/-- The write-only registers read as zero (49_video_timing_unit.md R256). -/
theorem readPort_writeOnly {port : Port} (hs : port ≠ .status) (hd : port ≠ .data) :
    readPort port cart cfg u = .next (0#8, u) := by
  cases port with
  | status => exact absurd rfl hs
  | data => exact absurd rfl hd
  | _ => rfl

/-- Only the data port's read can stop. -/
theorem readPort_completes {port : Port} (hd : port ≠ .data) : ∃ r, readPort port cart cfg u = .next r := by
  by_cases hs : port = .status
  · subst hs; exact ⟨readStatus u, rfl⟩
  · exact ⟨_, readPort_writeOnly hs hd⟩

/-- Only the writes of the status register and the data port can stop. -/
theorem writePort_completes {port : Port} (a : Addr) (v : Byte) (hs : port ≠ .status) (hd : port ≠ .data) :
    ∃ w, writePort port a cart cfg v u = .next w := by
  cases port with
  | status => exact absurd rfl hs
  | data => exact absurd rfl hd
  | _ => exact ⟨_, rfl⟩

/-- The bus address of a port write matters only for the fault of the status register. -/
theorem writePort_busAddress {port : Port} (a b : Addr) (v : Byte) (hs : port ≠ .status) :
    writePort port a cart cfg v u = writePort port b cart cfg v u := by
  cases port with
  | status => exact absurd rfl hs
  | _ => rfl

end

theorem portOf_congr {a b : Addr} (h : a.toNat % 8 = b.toNat % 8) : portOf a = portOf b := by
  rw [portOf, portOf, h]

/-! The data port of a state: its VRAM address is `portVramAddr`. -/

theorem vramAddr_eq_ofNat (s : State) : vramAddr s.vtu.v = BitVec.ofNat 14 (portVramAddr s) := by
  rw [← vramAddr_eq_portVramAddr, BitVec.ofNat_toNat, BitVec.setWidth_eq]

section
variable {s : State}

/-- Where `dataReadable` holds: palette space, nametables with a cartridge, or graphics ROM within the banks. -/
theorem vramRead_completes (h : dataReadable s = true) :
    ∃ b, vramRead s.cart s.config s.vtu (vramAddr s.vtu.v) = .next b := by
  rw [dataReadable, ← vramAddr_eq_portVramAddr] at h
  rcases Nat.lt_or_ge (vramAddr s.vtu.v).toNat 0x3F00 with lt | ge
  · cases hc : s.cart with
    | none => simp only [hc, decide_eq_true_eq] at h; omega
    | some c =>
      simp only [hc, Bool.or_eq_true, decide_eq_true_eq] at h
      rcases Nat.lt_or_ge (vramAddr s.vtu.v).toNat 0x2000 with pattern | nametable
      · exact ⟨_, by rw [vramRead_pattern pattern, readChr_inside (by omega)]⟩
      · exact ⟨_, vramRead_nametable nametable lt⟩
  · exact ⟨_, vramRead_palette ge⟩

theorem vramRead_stops_no_cart (h : dataReadable s = false) (hc : s.cart = none) :
    vramRead s.cart s.config s.vtu (vramAddr s.vtu.v) = .fault (.missingCartridge (portVramAddr s)) := by
  simp only [dataReadable, hc, decide_eq_false_iff_not, ← vramAddr_eq_portVramAddr] at h ⊢
  exact vramRead_no_cart (Nat.lt_of_not_le h)

theorem vramRead_stops_no_bank {c : Cartridge} (h : dataReadable s = false) (hc : s.cart = some c) :
    vramRead s.cart s.config s.vtu (vramAddr s.vtu.v) = .fault (.chrOutOfRange (BitVec.ofNat 14 (portVramAddr s))) := by
  rw [← vramAddr_eq_ofNat]
  simp only [dataReadable, hc, Bool.or_eq_false_iff, decide_eq_false_iff_not, ← vramAddr_eq_portVramAddr] at h ⊢
  obtain ⟨pattern, outside⟩ := h
  rw [vramRead_pattern (Nat.lt_of_not_le pattern), readChr_outside outside]

/-- A data-port write needs a cartridge below palette space alone. -/
theorem vramWrite_completes (v : Byte) (h : s.cart.isSome = true ∨ 0x3F00 ≤ portVramAddr s) :
    ∃ u, vramWrite s.cart s.config s.vtu (vramAddr s.vtu.v) v = .next u := by
  rw [← vramAddr_eq_portVramAddr] at h
  rcases Nat.lt_or_ge (vramAddr s.vtu.v).toNat 0x3F00 with lt | ge
  · obtain ⟨c, hc⟩ := Option.isSome_iff_exists.mp (h.resolve_right (Nat.not_le.mpr lt))
    rw [hc]
    rcases Nat.lt_or_ge (vramAddr s.vtu.v).toNat 0x2000 with pattern | nametable
    · exact ⟨_, vramWrite_pattern v pattern⟩
    · exact ⟨_, vramWrite_nametable v nametable lt⟩
  · exact ⟨_, vramWrite_palette v ge⟩

theorem vramWrite_stops_no_cart (v : Byte) (hc : s.cart = none) (h : portVramAddr s < 0x3F00) :
    vramWrite s.cart s.config s.vtu (vramAddr s.vtu.v) v = .fault (.missingCartridge (portVramAddr s)) := by
  rw [← vramAddr_eq_portVramAddr] at h ⊢
  rw [hc, vramWrite_no_cart v h]

/-! The data port on the bus. -/

variable {a : Addr} (h : 0x2000 ≤ a.toNat) (h' : a.toNat < 0x4000)
include h h'

theorem busRead_dataPort (hd : a.toNat % 8 = 7) :
    busRead a s = (readData s.cart s.config s.vtu).map fun r => (r.1, s.setVtu r.2) := by
  rw [busRead_port s h h', portOf_eq_data_iff.mpr hd, readPort]

theorem busWrite_dataPort (v : Byte) (hd : a.toNat % 8 = 7) :
    busWrite a v s = (writeData s.cart s.config v s.vtu).map s.setVtu := by
  rw [busWrite_port v s h h', portOf_eq_data_iff.mpr hd, writePort]

theorem busWrite_statusPort (v : Byte) (hs : a.toNat % 8 = 2) :
    busWrite a v s = .fault (.readOnlyRegisterWrite v a) := by
  rw [busWrite_port v s h h', portOf_eq_status_iff.mpr hs, writePort, Res.map_fault]

/-- A read of the data port stops as its VRAM read stops. -/
theorem busRead_dataPort_fault {f : Fault} (hd : a.toNat % 8 = 7)
    (hf : vramRead s.cart s.config s.vtu (vramAddr s.vtu.v) = .fault f) : busRead a s = .fault f := by
  rw [busRead_dataPort h h' hd, readData, hf, Res.map_fault, Res.map_fault]

/-- A write of the data port stops as its VRAM write stops. -/
theorem busWrite_dataPort_fault {v : Byte} {f : Fault} (hd : a.toNat % 8 = 7)
    (hf : vramWrite s.cart s.config s.vtu (vramAddr s.vtu.v) v = .fault f) : busWrite a v s = .fault f := by
  rw [busWrite_dataPort h h' v hd, writeData, hf, Res.map_fault, Res.map_fault]

/-! When an access completes, by region. -/

theorem readable_port : readable s a = (decide (a.toNat % 8 ≠ 7) || dataReadable s) := by
  rw [readable, if_neg (Nat.not_lt.mpr h), if_pos h']

theorem writable_port : writable s a =
    (decide (a.toNat % 8 ≠ 2) && (decide (a.toNat % 8 ≠ 7) || s.cart.isSome || decide (0x3F00 ≤ portVramAddr s))) := by
  rw [writable, if_neg (Nat.not_lt.mpr h), if_pos h']

/-- A port that is not readable is the data port, and its VRAM address is not readable. -/
theorem readable_port_false (hf : readable s a = false) : a.toNat % 8 = 7 ∧ dataReadable s = false := by
  simpa only [readable_port h h', Bool.or_eq_false_iff, decide_eq_false_iff_not, not_not] using hf

/-- A port that is not writable is the status register, or the data port below palette space with no cartridge. -/
theorem writable_port_false (hf : writable s a = false) :
    a.toNat % 8 = 2 ∨ (a.toNat % 8 = 7 ∧ s.cart = none ∧ portVramAddr s < 0x3F00) := by
  simpa only [writable_port h h', Bool.and_eq_false_iff, Bool.or_eq_false_iff, decide_eq_false_iff_not, not_not,
    Option.isSome_eq_false_iff, Option.isNone_iff_eq_none, Nat.not_le, and_assoc] using hf

theorem busRead_port_completes (hr : readable s a = true) : ∃ r, busRead a s = .next r := by
  by_cases hd : a.toNat % 8 = 7
  · have data : dataReadable s = true := by
      simpa only [readable_port h h', hd, ne_eq, not_true, decide_false, Bool.false_or] using hr
    obtain ⟨b, hb⟩ := vramRead_completes data
    rw [busRead_dataPort h h' hd, readData, hb]
    exact ⟨_, rfl⟩
  · obtain ⟨r, answers⟩ := readPort_completes (cart := s.cart) (cfg := s.config) (u := s.vtu)
      (mt portOf_eq_data_iff.mp hd)
    rw [busRead_port s h h', answers]
    exact ⟨_, rfl⟩

theorem busWrite_port_completes (v : Byte) (hw : writable s a = true) : ∃ t, busWrite a v s = .next t := by
  simp only [writable_port h h', Bool.and_eq_true, Bool.or_eq_true, decide_eq_true_eq, or_assoc] at hw
  obtain ⟨hs, hw⟩ := hw
  by_cases hd : a.toNat % 8 = 7
  · obtain ⟨u, hu⟩ := vramWrite_completes v (hw.resolve_left (not_not.mpr hd))
    rw [busWrite_dataPort h h' v hd, writeData, hu]
    exact ⟨_, rfl⟩
  · obtain ⟨w, answers⟩ := writePort_completes (cart := s.cart) (cfg := s.config) (u := s.vtu) a v
      (mt portOf_eq_status_iff.mp hs) (mt portOf_eq_data_iff.mp hd)
    rw [busWrite_port v s h h', answers]
    exact ⟨_, rfl⟩

end

theorem readable_rom {s : State} {a : Addr} (h : 0x8000 ≤ a.toNat) : readable s a = s.cart.isSome := by
  rw [readable, if_neg (by omega), if_neg (by omega), if_neg (by omega)]

theorem writable_rom {s : State} {a : Addr} (h : 0x8000 ≤ a.toNat) : writable s a = s.cart.isSome := by
  rw [writable, if_neg (by omega), if_neg (by omega), if_neg (by omega)]

/-- Below the ROM window only a port can be unreadable. -/
theorem port_of_not_readable {s : State} {a : Addr} (h : readable s a = false) (lt : a.toNat < 0x8000) :
    0x2000 ≤ a.toNat ∧ a.toNat < 0x4000 := by
  unfold readable at h
  split_ifs at h with ram port
  exact ⟨Nat.not_lt.mp ram, port⟩

/-- Below the ROM window only a port can be unwritable. -/
theorem port_of_not_writable {s : State} {a : Addr} (h : writable s a = false) (lt : a.toNat < 0x8000) :
    0x2000 ≤ a.toNat ∧ a.toNat < 0x4000 := by
  unfold writable at h
  split_ifs at h with ram port
  exact ⟨Nat.not_lt.mp ram, port⟩

theorem busRead_completes {s : State} {a : Addr} (h : readable s a = true) : ∃ r, busRead a s = .next r := by
  rcases region_cases a with hr | ⟨hr, hr'⟩ | ⟨hr, hr'⟩ | hr
  · exact ⟨_, busRead_ram s hr⟩
  · exact busRead_port_completes hr hr' h
  · exact ⟨_, busRead_xram s hr hr'⟩
  · obtain ⟨c, hc⟩ := Option.isSome_iff_exists.mp ((readable_rom hr).symm.trans h)
    exact ⟨_, busRead_rom hr hc⟩

theorem busWrite_completes {s : State} {a : Addr} (v : Byte) (h : writable s a = true) :
    ∃ t, busWrite a v s = .next t := by
  rcases region_cases a with hr | ⟨hr, hr'⟩ | ⟨hr, hr'⟩ | hr
  · exact ⟨_, busWrite_ram v s hr⟩
  · exact busWrite_port_completes hr hr' v h
  · exact ⟨_, busWrite_xram v s hr hr'⟩
  · obtain ⟨c, hc⟩ := Option.isSome_iff_exists.mp ((writable_rom hr).symm.trans h)
    exact ⟨_, busWrite_rom v hr hc⟩

end Sys2Proof.Machine

/-! PROOF. The loader of a ROM image (20_memory.md R88 to R90): the header's tests, the typed failures, the cartridge built. -/

namespace Sys2Proof.Machine

open Sys2Proof.Safety

/-! The header's tests. -/

section
variable {image : List Byte}

theorem extendedFormat_iff :
    extendedFormat (readHeader image) = true ↔ (image.getD 7 0#8).toNat / 4 % 4 = 2 := by
  have field : ∀ b : Byte, b.extractLsb' 2 2 = 0b10#2 ↔ b.toNat / 4 % 4 = 2 := by decide
  rw [extendedFormat, decide_eq_true_iff]
  exact field _

/-- Four bytes cut out of a list that holds them, as indexed bytes. -/
theorem take_four_drop (h : 16 ≤ image.length) : (image.drop 12).take 4 =
    [image.getD 12 0#8, image.getD 13 0#8, image.getD 14 0#8, image.getD 15 0#8] := by
  apply List.ext_getElem
  · simp only [List.length_take, List.length_drop, List.length_cons, List.length_nil]; omega
  · intro k hk hk'
    have lt : k < 4 := hk'
    rw [List.getElem_take, List.getElem_drop]
    match k, lt with
    | 0, _ | 1, _ | 2, _ | 3, _ => exact (List.getD_eq_getElem image 0#8 (by omega)).symm

theorem tailZero_iff (h : 16 ≤ image.length) :
    tailZero image = true ↔ ∀ k, 12 ≤ k → k < 16 → image.getD k 0#8 = 0#8 := by
  rw [tailZero, decide_eq_true_iff, take_four_drop h]
  simp only [List.cons.injEq, and_true]
  constructor
  · rintro ⟨h12, h13, h14, h15⟩ k hk hk'
    obtain rfl | rfl | rfl | rfl : k = 12 ∨ k = 13 ∨ k = 14 ∨ k = 15 := by omega
    · exact h12
    · exact h13
    · exact h14
    · exact h15
  · intro zero
    exact ⟨zero 12 (by decide) (by decide), zero 13 (by decide) (by decide), zero 14 (by decide) (by decide),
      zero 15 (by decide) (by decide)⟩

/-- The loader's test of the header's tail. -/
theorem tailAllowed_iff (h : 16 ≤ image.length) :
    tailAllowed image ↔ (!extendedFormat (readHeader image) && !tailZero image) ≠ true := by
  rw [tailAllowed, ← extendedFormat_iff, ← tailZero_iff h]
  cases extendedFormat (readHeader image) <;> cases tailZero image <;> decide

/-! The parts of the image. -/

/-- The length test of the loader is the length the header claims. -/
theorem body_length_lt_iff (h : 16 ≤ image.length) :
    (image.drop headerSize).length < (if (readHeader image).trainer then trainerSize else 0) +
      prgBankSize * (readHeader image).prgBanks + chrBankSize * (readHeader image).chrBanks ↔
    image.length < claimedLength image := by
  have trainer : (if (readHeader image).trainer then trainerSize else 0) = trainerLength image := rfl
  have prg : prgBankSize * (readHeader image).prgBanks = 16384 * (image.getD 4 0#8).toNat := rfl
  have chr : chrBankSize * (readHeader image).chrBanks = 8192 * (image.getD 5 0#8).toNat := rfl
  rw [trainer, prg, chr, claimedLength, List.length_drop, headerSize]
  omega

/-- The 512 bytes after the header, or none. -/
theorem trainer_eq_slice : (if (readHeader image).trainer then (image.drop headerSize).take trainerSize else []) =
    (image.drop 16).take (trainerLength image) := by
  show _ = (image.drop 16).take (if (readHeader image).trainer then trainerSize else 0)
  cases (readHeader image).trainer <;> rfl

/-- The bytes after the header and the trainer. -/
theorem roms_eq_drop : (if (readHeader image).trainer then (image.drop headerSize).drop trainerSize
    else image.drop headerSize) = image.drop (16 + trainerLength image) := by
  show _ = image.drop (16 + if (readHeader image).trainer then trainerSize else 0)
  cases (readHeader image).trainer
  · rfl
  · exact List.drop_drop

/-- The store of `n` bytes of the image from index `i` on. -/
def imageSlice (image : List Byte) (i n : Nat) : Memory := memOfBytes 0 ((image.drop i).take n)

theorem memRead_imageSlice (image : List Byte) (i n k : Nat) :
    memRead (imageSlice image i n) k = if k < n then image.getD (i + k) 0#8 else 0#8 := by
  rw [imageSlice, memRead_memOfBytes, if_pos (Nat.zero_le k), Nat.sub_zero, List.getD_eq_getElem?_getD,
    List.getElem?_take, List.getElem?_drop, List.getD_eq_getElem?_getD]
  split <;> rfl

theorem imageSlice_wf (image : List Byte) (i : Nat) {n size : Nat} (h : n ≤ size) : memWf size (imageSlice image i n) :=
  memOfBytes_wf ((List.length_take_le _ _).trans h)

/-- The cartridge in a full image: the header's fields, then the slices after the header. -/
def imageCartridge (image : List Byte) (banks : PrgBanks) : Cartridge :=
  { prgBanks := banks
    prg := imageSlice image (16 + trainerLength image) (16384 * prgCount banks)
    chrBanks := (readHeader image).chrBanks
    chr := imageSlice image (16 + trainerLength image + 16384 * prgCount banks) (8192 * (readHeader image).chrBanks)
    mirroring := (readHeader image).mirroring
    battery := (readHeader image).battery
    trainer := (readHeader image).trainer
    trainerBlock := imageSlice image 16 (trainerLength image) }

theorem imageCartridge_wf (image : List Byte) (banks : PrgBanks) : (imageCartridge image banks).wf := by
  refine ⟨imageSlice_wf _ _ (le_refl _), imageSlice_wf _ _ (le_refl _), imageSlice_wf _ _ ?_⟩
  unfold trainerLength trainerSize
  split <;> decide

theorem readHeader_mirroring (image : List Byte) :
    (readHeader image).mirroring = .vertical ↔ (image.getD 6 0#8).getLsbD 0 = true := by
  show (if (image.getD 6 0#8).getLsbD 0 then Mirroring.vertical else .horizontal) = .vertical ↔ _
  cases (image.getD 6 0#8).getLsbD 0 <;> decide

/-! What the loader answers, in the order of its tests (log 10). -/

theorem parseImage_unsigned (h : ¬ signed image) : parseImage image = .error .invalidHeader := by
  rw [parseImage, if_pos (show image.take 4 ≠ signature from h)]

section
variable (hs : signed image)
include hs

theorem signature_accepted : ¬ image.take 4 ≠ signature := not_not.mpr hs

theorem parseImage_short (h : image.length < 16) : parseImage image = .error .truncated := by
  rw [parseImage, if_neg (signature_accepted hs), if_pos (show image.length < headerSize from h)]

theorem parseImage_badTail (h : 16 ≤ image.length) (ht : ¬ tailAllowed image) :
    parseImage image = .error .invalidHeader := by
  rw [tailAllowed_iff h, not_not] at ht
  rw [parseImage, if_neg (signature_accepted hs), if_neg (show ¬ image.length < headerSize from Nat.not_lt.mpr h)]
  exact if_pos ht

theorem parseImage_truncated (h : 16 ≤ image.length) (ht : tailAllowed image) (hl : image.length < claimedLength image) :
    parseImage image = .error .truncated := by
  rw [parseImage, if_neg (signature_accepted hs), if_neg (show ¬ image.length < headerSize from Nat.not_lt.mpr h)]
  exact (if_neg ((tailAllowed_iff h).mp ht)).trans (if_pos ((body_length_lt_iff h).mpr hl))

/-- A full image with a good header: one or two program banks give a cartridge, any other count is refused. -/
theorem parseImage_full (ht : tailAllowed image) (hl : claimedLength image ≤ image.length) :
    parseImage image =
      if (image.getD 4 0#8).toNat = 1 then .ok (imageCartridge image .one)
      else if (image.getD 4 0#8).toNat = 2 then .ok (imageCartridge image .two)
      else .error .unsupportedBankCount := by
  have h : 16 ≤ image.length := by unfold claimedLength at hl; omega
  rw [parseImage, if_neg (signature_accepted hs), if_neg (show ¬ image.length < headerSize from Nat.not_lt.mpr h)]
  refine (if_neg ((tailAllowed_iff h).mp ht)).trans
    ((if_neg (mt (body_length_lt_iff h).mp (Nat.not_lt.mpr hl))).trans ?_)
  rw [trainer_eq_slice, roms_eq_drop, List.drop_drop]
  change _ = if (readHeader image).prgBanks = 1 then _ else if (readHeader image).prgBanks = 2 then _ else _
  split
  · next one => rw [one, if_pos rfl]; rfl
  · next two => rw [two, if_neg (by decide), if_pos rfl]; rfl
  · next not_one not_two => rw [if_neg not_one, if_neg not_two]

theorem parseImage_ok {banks : PrgBanks} (ht : tailAllowed image) (hl : claimedLength image ≤ image.length)
    (hb : (image.getD 4 0#8).toNat = prgCount banks) : parseImage image = .ok (imageCartridge image banks) := by
  rw [parseImage_full hs ht hl, hb]
  cases banks <;> rfl

end

end

/-- The bank counts a cartridge can have. -/
theorem exists_prgCount {n : Nat} (h : n = 1 ∨ n = 2) : ∃ banks, n = prgCount banks := by
  rcases h with rfl | rfl
  · exact ⟨.one, rfl⟩
  · exact ⟨.two, rfl⟩

end Sys2Proof.Machine

/-! PROOF. The statements about the bus and the loader (20_memory.md), settled. -/

namespace Sys2Proof.Proofs

open Sys2Proof.Machine Sys2Proof.Safety

/-- Settles O9: by region; only the data port and the ROM window can stop. -/
theorem busReadCompletesExactlyWhenReadable : Obligations.BusReadCompletesExactlyWhenReadable := by
  refine fun s a => ⟨fun h => ?_, fun h rom => ?_, fun h low hc => ?_, fun h low hc => ?_⟩
  · obtain ⟨⟨v, t⟩, hr⟩ := busRead_completes h
    exact ⟨v, t, hr⟩
  · rw [readable_rom rom, Option.isSome_eq_false_iff, Option.isNone_iff_eq_none] at h
    exact busRead_no_cart rom h
  · obtain ⟨hp, hp'⟩ := port_of_not_readable h low
    obtain ⟨hd, stops⟩ := readable_port_false hp hp' h
    exact busRead_dataPort_fault hp hp' hd (vramRead_stops_no_cart stops hc)
  · obtain ⟨hp, hp'⟩ := port_of_not_readable h low
    obtain ⟨hd, stops⟩ := readable_port_false hp hp' h
    obtain ⟨c, hc⟩ := Option.ne_none_iff_exists'.mp hc
    exact busRead_dataPort_fault hp hp' hd (vramRead_stops_no_bank stops hc)

/-- Settles O10: by region; only the status register, the data port and the ROM window can stop. -/
theorem busWriteCompletesExactlyWhenWritable : Obligations.BusWriteCompletesExactlyWhenWritable := by
  refine fun s a v => ⟨busWrite_completes v, fun h rom => ?_, fun h low hs => ?_, fun h low hs => ?_⟩
  · rw [writable_rom rom, Option.isSome_eq_false_iff, Option.isNone_iff_eq_none] at h
    exact busWrite_no_cart v rom h
  · obtain ⟨hp, hp'⟩ := port_of_not_writable h low
    exact busWrite_statusPort hp hp' v hs
  · obtain ⟨hp, hp'⟩ := port_of_not_writable h low
    obtain ⟨hd, hc, below⟩ := (writable_port_false hp hp' h).resolve_left hs
    exact busWrite_dataPort_fault hp hp' hd (vramWrite_stops_no_cart v hc below)

/-- Settles O11: the read finds the byte the write stored at the same index. -/
theorem ramAndPlainRamHoldWhatIsStored : Obligations.RamAndPlainRamHoldWhatIsStored := by
  refine ⟨fun s a b v ha hb same => ⟨_, busWrite_ram v s ha, ?_⟩, fun s a v h h' => ⟨_, busWrite_xram v s h h', ?_⟩⟩
  · rw [busRead_ram _ hb, ← same, State.setRam_ram, memRead_memWrite_same]
  · rw [busRead_xram _ h h', State.setXram_xram, memRead_memWrite_same]

/-- Settles O12: the index of the program byte, by the number of banks. -/
theorem romWindowReadsBanksAndIgnoresWrites : Obligations.RomWindowReadsBanksAndIgnoresWrites := by
  refine fun s c a hc rom => ⟨fun hb => ?_, fun hb => ?_, fun v => busWrite_rom v rom hc⟩ <;>
  · rw [busRead_rom rom hc, readPrg, hb]
    rfl

/-- Settles O13: the two addresses are one port; its write sees the bus address only to fault. -/
theorem registerWindowMirrorsEveryEightBytes : Obligations.RegisterWindowMirrorsEveryEightBytes := by
  intro s a b ha ha' hb hb' same
  have port : portOf a = portOf b := portOf_congr same
  refine ⟨?_, fun hs v => ?_, fun hs v => ⟨busWrite_statusPort ha ha' v hs, busWrite_statusPort hb hb' v (same ▸ hs)⟩⟩
  · rw [busRead_port s ha ha', busRead_port s hb hb', port]
  · rw [busWrite_port v s ha ha', busWrite_port v s hb hb', ← port,
      writePort_busAddress a b v (mt portOf_eq_status_iff.mp hs)]

/-- Settles O14: by the four things a completed write can do. -/
theorem busWriteChangesOnlyItsByte : Obligations.BusWriteChangesOnlyItsByte := by
  intro s t a v h
  refine ⟨busWrite_frame h, ?_⟩
  rcases busWrite_cases h with ⟨ram, rfl⟩ | ⟨port, port', u, -, rfl⟩ | ⟨xram, xram', rfl⟩ | ⟨rom, rfl⟩
  · refine ⟨fun b other => ?_, fun _ => ⟨?_, rfl⟩, fun _ => by omega, fun _ => by omega⟩
    · rw [byteAt_setRam_memWrite ram, if_neg other]
    · rw [byteAt_setRam_memWrite ram, if_pos (show sameByte a a from .inl rfl)]
  · exact ⟨fun b _ => byteAt_setVtu s u b, fun _ => by omega, fun _ => byteAt_setVtu s u, fun _ => by omega⟩
  · refine ⟨fun b other => ?_, fun _ => ⟨?_, rfl⟩, fun _ => by omega, fun _ => by omega⟩
    · rw [byteAt_setXram_memWrite xram xram', if_neg fun e => other (.inl e)]
    · rw [byteAt_setXram_memWrite xram xram', if_pos rfl]
  · exact ⟨fun _ _ => rfl, fun _ => by omega, fun _ => by omega, fun _ => rfl⟩

/-- Settles O15: a completed read changes of the VTU what a port read changes; a write-only port reads as zero. -/
theorem busReadHasOnlyTheListedSideEffects : Obligations.BusReadHasOnlyTheListedSideEffects := by
  intro s t a v h
  obtain ⟨state, vtu, -⟩ := busRead_frame h
  refine ⟨state, fun b hb => ?_, fun port port' hs hd => ?_, ?_⟩
  · cases h.symm.trans (busRead_of_byteAt hb)
    exact ⟨rfl, rfl⟩
  · rw [busRead_port s port port', readPort_writeOnly (mt portOf_eq_status_iff.mp hs) (mt portOf_eq_data_iff.mp hd)] at h
    cases h
    exact ⟨rfl, rfl⟩
  · rw [vtu]
    exact ⟨rfl, rfl, rfl, rfl, rfl, rfl, rfl, rfl, rfl⟩

/-- Settles O16: the test of the address, and that a 16-bit address is its own value as a number. -/
theorem wideBusAddressFaults : Obligations.WideBusAddressFaults := by
  refine fun n v s => ⟨fun wide => ?_, fun a => ?_⟩
  · have above : ¬ n < 0x10000 := by omega
    exact ⟨if_neg above, if_neg above⟩
  · rw [busReadAt, busWriteAt, if_pos a.isLt, if_pos a.isLt, BitVec.ofNat_toNat, BitVec.setWidth_eq]
    exact ⟨rfl, rfl⟩

/-- Settles O55: the loader's tests in their order, then the fields and slices of the cartridge it builds. -/
theorem imageLoaderRejectsAndBuilds : Obligations.ImageLoaderRejectsAndBuilds := by
  refine ⟨fun _ => parseImage_unsigned, fun _ => parseImage_badTail, fun _ => parseImage_short,
    fun _ => parseImage_truncated, fun image hs ht hl h1 h2 => ?_, fun image hs ht hl hb => ?_⟩
  · rw [parseImage_full hs ht hl, if_neg h1, if_neg h2]
  · obtain ⟨banks, hb⟩ := exists_prgCount hb
    refine ⟨_, parseImage_ok hs ht hl hb, imageCartridge_wf image banks, hb.symm, rfl, readHeader_mirroring image, rfl, rfl,
      memRead_imageSlice image 16 _, fun k hk => ?_, fun k hk => ?_⟩
    · exact (memRead_imageSlice image _ _ k).trans (if_pos hk)
    · exact (memRead_imageSlice image _ _ k).trans (if_pos hk)

end Sys2Proof.Proofs

/-! PROOF. The opcode map row by row: which bytes each row's form takes, and the bytes without a row (30_encoding.md R100 to
R106). -/

namespace Sys2Proof.Machine

open Sys2Proof.Safety

/-! Decoded bytes encoded again. -/

/-- A lookup answers a row of the list, and that row is the opcode byte's. -/
theorem findRow_eq_some {op : Byte} {rows : List OpRow} {row : OpRow} (h : findRow op rows = some row) :
    row ∈ rows ∧ row.opcode = op := by
  induction rows with
  | nil => cases h
  | cons r rest ih =>
    rw [findRow] at h
    split at h
    · next hr => cases h; exact ⟨List.mem_cons_self, hr⟩
    · obtain ⟨mem, code⟩ := ih h
      exact ⟨List.mem_cons_of_mem r mem, code⟩

/-- What a row completes is encoded as the row's opcode byte and the operand bytes of its form (30_encoding.md R101). -/
def RowEncodes (row : OpRow) : Prop :=
  match row.form with
  | .none i => encode i = [row.opcode]
  | .byte make => ∀ b, encode (make b) = [row.opcode, b]
  | .word make => ∀ w, encode (make w) = [row.opcode, loByte w, hiByte w]

/-- Every row of the opcode map (30_encoding.md R105) stands under the byte that encodes its instruction. -/
theorem opTable_rowEncodes : ∀ row ∈ opTable, RowEncodes row := by
  rw [← List.forall_iff_forall_mem]
  and_intros <;> dsimp only [List.Forall, RowEncodes] <;> intros <;> rfl

theorem opRow_eq_some {op : Byte} {row : OpRow} (h : opRow op = some row) : row.opcode = op ∧ RowEncodes row := by
  obtain ⟨mem, code⟩ := findRow_eq_some h
  exact ⟨code, opTable_rowEncodes row mem⟩

/-- The decoder reads off a list of bytes nothing but an encoding (30_encoding.md R100): by the form of the row found. -/
theorem eq_encode_append_of_decode {bytes rest : List Byte} {i : Instr} (h : decode bytes = .ok (i, rest)) :
    bytes = encode i ++ rest := by
  cases bytes with
  | nil => cases h
  | cons op operands =>
    rw [decode] at h
    split at h
    · cases h
    · next row hrow =>
      obtain ⟨rfl, encodes⟩ := opRow_eq_some hrow
      rw [RowEncodes] at encodes
      split at h
      · next hform => rw [hform] at encodes; cases h; rw [encodes]; rfl
      · next hform => rw [hform] at encodes; cases h; rw [encodes]; rfl
      · next hform => rw [hform] at encodes; cases h; rw [encodes, loByte_join, hiByte_join]; rfl
      · cases h

/-! The undefined bytes. -/

theorem findRow_eq_none_iff {op : Byte} {rows : List OpRow} : findRow op rows = none ↔ ∀ row ∈ rows, row.opcode ≠ op := by
  induction rows with
  | nil => simp only [findRow, List.not_mem_nil, false_implies, implies_true]
  | cons r rest ih =>
    rw [findRow, List.forall_mem_cons, ← ih]
    split
    · next hr => simp only [hr, reduceCtorEq, ne_eq, not_true_eq_false, false_and]
    · next hr => simp only [hr, ne_eq, not_false_eq_true, true_and]

set_option maxRecDepth 4000 in
/-- The list of 30_encoding.md R106 is what the opcode map leaves of the 256 byte values. -/
theorem undefinedOpcodes_toNat :
    undefinedOpcodes.map BitVec.toNat = (List.range 256).diff (opTable.map fun row => row.opcode.toNat) := by decide

/-- The bytes without a row are those that 30_encoding.md R106 lists. -/
theorem opRow_eq_none_iff (op : Byte) : opRow op = none ↔ op ∈ undefinedOpcodes := by
  have inj : Function.Injective (BitVec.toNat (w := 8)) := fun _ _ => BitVec.eq_of_toNat_eq
  rw [opRow, findRow_eq_none_iff, ← List.mem_map_of_injective inj, undefinedOpcodes_toNat, List.nodup_range.mem_sdiff_iff,
    List.mem_range, and_iff_right op.isLt]
  simp only [List.mem_map, BitVec.toNat_inj, not_exists, not_and, ne_eq]

/-- The fetch of a byte without a row faults with that byte and its address (60_exceptions.md R302). -/
theorem fetchInstr_of_opRow_none {s t : State} {op : Byte} (hr : busRead s.pc s = .next (op, t)) (h : opRow op = none) :
    fetchInstr s = .fault (.illegalOpcode op s.pc) := by
  rw [fetchInstr, fetch8, hr, Res.map_next, Res.andThen_next, h]

/-- A step that starts an instruction stops as its fetch stops. -/
theorem step_of_fetch_fault {s : State} {f : Fault} (h : Quiet s) (hc : s.cyc = 0)
    (hf : fetchInstr (s.setHostCalls s.hostCalls.tail) = .fault f) : step s = .fault f := by
  have idle : (s.setHostCalls s.hostCalls.tail).cyc = 0 := hc
  rw [step_quiet h, masterStep, tick, idle, runInstr, hf, Res.andThen_fault, Res.andThen_fault]

/-- Where the bus answers an undefined byte at `PC`, the step stops with it and its address. -/
theorem step_of_undefined {s t : State} {op : Byte} (h : Quiet s) (hc : s.cyc = 0) (hr : busRead s.pc s = .next (op, t))
    (hu : op ∈ undefinedOpcodes) : step s = .fault (.illegalOpcode op s.pc) := by
  have taken : busRead s.pc (s.setHostCalls s.hostCalls.tail) = .next (op, t.setHostCalls s.hostCalls.tail) := by
    rw [busRead_setHostCalls, hr, Res.map_next]
  exact step_of_fetch_fault h hc (fetchInstr_of_opRow_none taken ((opRow_eq_none_iff op).mpr hu))

end Sys2Proof.Machine

/-! PROOF. The statements about the encoding (30_encoding.md), settled. -/

namespace Sys2Proof.Proofs

open Sys2Proof.Machine Sys2Proof.Safety

/-- Settles O2: the decoder reads an instruction back from its encoding, whatever bytes follow. -/
theorem decodeOfEncodeIsTheInstruction : Obligations.DecodeOfEncodeIsTheInstruction :=
  fun i rest _ => decode_encode i rest

/-- Settles O3: the row found encodes what it completes. -/
theorem decodedBytesAreTheEncoding : Obligations.DecodedBytesAreTheEncoding :=
  fun _ _ _ => eq_encode_append_of_decode

/-- Settles O4: what the opcode map leaves of the 256 bytes, and the fetch of a byte without a row. -/
theorem undefinedOpcodesStopTheMachine : Obligations.UndefinedOpcodesStopTheMachine :=
  ⟨opRow_eq_none_iff, rfl, fun _ _ hq hc hb hu => step_of_undefined hq hc (busRead_of_byteAt hb) hu,
    fun _ _ _ hq hc hr hu => step_of_undefined hq hc hr hu⟩

/-- Settles O1: the decoder run on each of the words. -/
theorem sampleWordsDecodeAsWritten : Obligations.SampleWordsDecodeAsWritten := by
  and_intros <;> rfl

end Sys2Proof.Proofs

/-! PROOF. The forms an opcode's rule lists, one lemma per shape: the row of the opcode map gives the encoding, the shape of the
meaning and its addressing mode give the effect (30_encoding.md R101 to R123). -/

namespace Sys2Proof.Machine

open Sys2Proof.Safety

/-! The encodings: each is read off the row of its opcode byte. -/

section
variable {op : Byte} {mn : Mnemonic} {mode : Mode} {cycles : Nat} {penalty : Bool}

theorem encodes1_of_row {i : Instr} (h : opRow op = some ⟨op, mn, mode, cycles, false, .none i⟩) :
    Encodes1 op mn mode cycles i :=
  ⟨⟨_, h⟩, (opRow_eq_some h).2, fun rest => by rw [decode, h]⟩

theorem encodes2_of_row {make : Byte → Instr} (h : opRow op = some ⟨op, mn, mode, cycles, penalty, .byte make⟩) :
    Encodes2 op mn mode cycles penalty make :=
  ⟨⟨_, h⟩, fun b => ⟨(opRow_eq_some h).2 b, fun rest => by rw [decode, h]⟩⟩

theorem encodes3_of_row {make : Addr → Instr} (h : opRow op = some ⟨op, mn, mode, cycles, penalty, .word make⟩) :
    Encodes3 op mn mode cycles penalty make := by
  refine ⟨⟨_, h⟩, fun lo hi => ⟨?_, fun rest => by rw [decode, h]; rfl⟩⟩
  have encoded : encode (make (join hi lo)) = [op, loByte (join hi lo), hiByte (join hi lo)] := (opRow_eq_some h).2 _
  rwa [loByte_join, hiByte_join] at encoded

end

/-! A bus access that does not complete stops with a fault. -/

theorem busRead_stops {s : State} {a : Addr} (h : readable s a = false) : ∃ f, busRead a s = .fault f := by
  obtain ⟨-, rom, noCart, noBank⟩ := Proofs.busReadCompletesExactlyWhenReadable s a
  by_cases low : a.toNat < 0x8000
  · by_cases hc : s.cart = none
    · exact ⟨_, noCart h low hc⟩
    · exact ⟨_, noBank h low hc⟩
  · exact ⟨_, rom h (Nat.not_lt.mp low)⟩

theorem busWrite_stops {s : State} {a : Addr} (v : Byte) (h : writable s a = false) : ∃ f, busWrite a v s = .fault f := by
  obtain ⟨-, rom, status, data⟩ := Proofs.busWriteCompletesExactlyWhenWritable s a v
  by_cases low : a.toNat < 0x8000
  · by_cases hs : a.toNat % 8 = 2
    · exact ⟨_, status h low hs⟩
    · exact ⟨_, data h low hs⟩
  · exact ⟨_, rom h (Nat.not_lt.mp low)⟩

/-! The reading forms. -/

/-- The effect on registers and flags of an operand in the scratch is `post` of that operand, and leaves the scratch. -/
abbrev EffectOfOperand (effect : State → State) (post : Byte → State → State) : Prop :=
  ∀ (r : State) (k : Scratch), effect (r.setScratch k) = (post k.m r).setScratch k

theorem loadA_operand : EffectOfOperand loadA fun v r => { r with a := v, p := withZN r.p v } := fun r k => by
  rw [loadA, setZN_eq_withZN]
  rfl

theorem loadX_operand : EffectOfOperand loadX fun v r => { r with x := v, p := withZN r.p v } := fun r k => by
  rw [loadX, setZN_eq_withZN]
  rfl

theorem loadY_operand : EffectOfOperand loadY fun v r => { r with y := v, p := withZN r.p v } := fun r k => by
  rw [loadY, setZN_eq_withZN]
  rfl

section
variable {op : Byte} {mn : Mnemonic} {cycles : Nat} {penalty : Bool}
variable {effect : State → State} {post : Byte → State → State}

/-- An instruction that takes its operand from memory reads it once at the address its mode leaves. -/
theorem readsAt_of_withOperand {i : Instr} {mode : State → Res State} {s : State} {ea : Addr} {crossed : Bool}
    (exec_eq : exec i s = withOperand mode effect s) (hm : LeavesEa mode s ea crossed) (he : EffectOfOperand effect post) :
    ReadsAt i s ea crossed post := by
  obtain ⟨k, hk, fetched, -⟩ := hm
  obtain rfl : k.ea = ea := fetched.1
  rw [withOperand_eq hk] at exec_eq
  refine ⟨fun readable => ?_, fun stops => ?_⟩
  · obtain ⟨⟨v, r⟩, hr⟩ := busRead_completes readable
    rw [hr, Res.map_next, he] at exec_eq
    exact ⟨v, r, { k with m := v }, hr, fetched, rfl, exec_eq⟩
  · obtain ⟨f, hf⟩ := busRead_stops stops
    rw [hf, Res.map_fault] at exec_eq
    exact ⟨f, hf, exec_eq⟩

theorem immForm {make : Byte → Instr} (he : EffectOfOperand effect post)
    (row : opRow op = some ⟨op, mn, .imm, 2, false, .byte make⟩ := by rfl)
    (exec_eq : ∀ v s, exec (make v) s = withImmediate v effect s := by exact fun _ _ => rfl) : ImmForm op mn make post := by
  refine ⟨encodes2_of_row row, fun s v => ?_⟩
  have scratch : immediate v s = s.setScratch { s.scratch with ea := s.pc - 1#16, m := v } := rfl
  rw [exec_eq, withImmediate, scratch, he]
  exact ⟨{ s.scratch with ea := s.pc - 1#16, m := v }, ⟨rfl, (Bool.or_false _).symm, rfl, rfl, rfl⟩, rfl, rfl⟩

theorem readForm2 {m : ByteMode} {mode : Byte → State → Res State} {make : Byte → Instr}
    (hm : ∀ s z, LeavesEa (mode z) s (m.ea s z) (m.crossed s z)) (he : EffectOfOperand effect post)
    (row : opRow op = some ⟨op, mn, m.mode, cycles, penalty, .byte make⟩ := by rfl)
    (exec_eq : ∀ z s, exec (make z) s = withOperand (mode z) effect s := by exact fun _ _ => rfl) :
    ReadForm2 op mn m cycles penalty make post :=
  ⟨encodes2_of_row row, fun s z => readsAt_of_withOperand (exec_eq z s) (hm s z) he⟩

theorem readForm3 {m : WordMode} {mode : Addr → State → Res State} {make : Addr → Instr}
    (hm : ∀ s w, LeavesEa (mode w) s (m.ea s w) (m.crossed s w)) (he : EffectOfOperand effect post)
    (row : opRow op = some ⟨op, mn, m.mode, cycles, penalty, .word make⟩ := by rfl)
    (exec_eq : ∀ w s, exec (make w) s = withOperand (mode w) effect s := by exact fun _ _ => rfl) :
    ReadForm3 op mn m cycles penalty make post :=
  ⟨encodes3_of_row row, fun s w => readsAt_of_withOperand (exec_eq w s) (hm s w) he⟩

end

/-! The storing forms. -/

section
variable {op : Byte} {mn : Mnemonic} {cycles : Nat} {reg : State → Byte}

/-- A storing instruction writes its register once at the address its mode leaves; the mode does not change the register. -/
theorem storesAt_of_storeRegister {i : Instr} {mode : State → Res State} {s : State} {ea : Addr} {crossed : Bool}
    (exec_eq : exec i s = storeRegister mode reg s) (hm : LeavesEa mode s ea crossed)
    (hreg : ∀ k, reg (s.setScratch k) = reg s) : StoresAt i s ea crossed (reg s) := by
  obtain ⟨k, hk, fetched, operand⟩ := hm
  obtain rfl : k.ea = ea := fetched.1
  rw [storeRegister_eq hk, hreg] at exec_eq
  refine ⟨fun writable => ?_, fun stops => ?_⟩
  · obtain ⟨t, ht⟩ := busWrite_completes (reg s) writable
    rw [ht, Res.map_next] at exec_eq
    exact ⟨t, k, ht, fetched, operand, exec_eq⟩
  · obtain ⟨f, hf⟩ := busWrite_stops (reg s) stops
    rw [hf, Res.map_fault] at exec_eq
    exact ⟨f, hf, exec_eq⟩

theorem storeForm2 {m : ByteMode} {mode : Byte → State → Res State} {make : Byte → Instr}
    (hm : ∀ s z, LeavesEa (mode z) s (m.ea s z) (m.crossed s z))
    (row : opRow op = some ⟨op, mn, m.mode, cycles, false, .byte make⟩ := by rfl)
    (exec_eq : ∀ z s, exec (make z) s = storeRegister (mode z) reg s := by exact fun _ _ => rfl)
    (hreg : ∀ s k, reg (s.setScratch k) = reg s := by exact fun _ _ => rfl) : StoreForm2 op mn m cycles make reg :=
  ⟨encodes2_of_row row, fun s z => storesAt_of_storeRegister (exec_eq z s) (hm s z) (hreg s)⟩

theorem storeForm3 {m : WordMode} {mode : Addr → State → Res State} {make : Addr → Instr}
    (hm : ∀ s w, LeavesEa (mode w) s (m.ea s w) (m.crossed s w))
    (row : opRow op = some ⟨op, mn, m.mode, cycles, false, .word make⟩ := by rfl)
    (exec_eq : ∀ w s, exec (make w) s = storeRegister (mode w) reg s := by exact fun _ _ => rfl)
    (hreg : ∀ s k, reg (s.setScratch k) = reg s := by exact fun _ _ => rfl) : StoreForm3 op mn m cycles make reg :=
  ⟨encodes3_of_row row, fun s w => storesAt_of_storeRegister (exec_eq w s) (hm s w) (hreg s)⟩

end

/-- A completed store is a completed bus write of the byte at `ea`, but for the scratch. -/
theorem busWrite_of_storesAt {i : Instr} {s t : State} {ea : Addr} {crossed : Bool} {v : Byte}
    (h : StoresAt i s ea crossed v) (ht : exec i s = .next t) : ∃ u k, busWrite ea v s = .next u ∧ t = u.setScratch k := by
  obtain ⟨completes, stops⟩ := h
  cases hw : writable s ea with
  | true =>
    obtain ⟨u, k, hu, -, -, exec_eq⟩ := completes hw
    cases ht.symm.trans exec_eq
    exact ⟨u, k, hu, rfl⟩
  | false =>
    obtain ⟨f, -, exec_eq⟩ := stops hw
    cases ht.symm.trans exec_eq

/-- The memory frame of a completed store (20_memory.md R64, R66): that of its bus write. -/
theorem byteAt_of_storesAt {i : Instr} {s : State} {ea : Addr} {crossed : Bool} {v : Byte}
    (h : StoresAt i s ea crossed v) (t : State) (ht : exec i s = .next t) :
    (∀ b, ¬ sameByte ea b → byteAt t b = byteAt s b) ∧
    (ea.toNat < 0x2000 ∨ (0x4000 ≤ ea.toNat ∧ ea.toNat < 0x8000) → byteAt t ea = some v) := by
  obtain ⟨u, k, hu, rfl⟩ := busWrite_of_storesAt h ht
  obtain ⟨-, others, stored, -⟩ := Proofs.busWriteChangesOnlyItsByte s u ea v hu
  exact ⟨others, fun ram => (stored ram).1⟩

/-! The implied forms. -/

/-- A transfer with flags: `set` writes the destination with the source `src`, and Z and N come from it. -/
theorem copyForm {op : Byte} {mn : Mnemonic} {i : Instr} (set : State → Byte → State) (src : State → Byte)
    (row : opRow op = some ⟨op, mn, .imp, 2, false, .none i⟩ := by rfl)
    (exec_eq : ∀ s, exec i s = .next ((set s (src s)).setP (setZN (src s) s.p)) := by exact fun _ => rfl) :
    PlainForm op mn .imp 2 i fun s => (set s (src s)).setP (withZN s.p (src s)) :=
  ⟨encodes1_of_row row, fun s => by rw [exec_eq, setZN_eq_withZN]⟩

end Sys2Proof.Machine

/-! PROOF. The statements about loads, stores and transfers (40_load_store_transfer.md), settled. -/

namespace Sys2Proof.Proofs

open Sys2Proof.Machine Sys2Proof.Safety

/-- Settles O17: the effect of `loadA` under each addressing mode. -/
theorem ldaEveryForm : Obligations.LdaEveryForm :=
  ⟨immForm loadA_operand, readForm2 zeroPage_leaves loadA_operand, readForm2 zeroPageX_leaves loadA_operand,
    readForm3 absolute_leaves loadA_operand, readForm3 absoluteX_leaves loadA_operand, readForm3 absoluteY_leaves loadA_operand,
    readForm2 indexedIndirect_leaves loadA_operand, readForm2 indirectIndexed_leaves loadA_operand⟩

/-- Settles O18: LDX indexes by Y, LDY by X. -/
theorem ldxAndLdyEveryForm : Obligations.LdxAndLdyEveryForm :=
  ⟨immForm loadX_operand, readForm2 zeroPage_leaves loadX_operand, readForm2 zeroPageY_leaves loadX_operand,
    readForm3 absolute_leaves loadX_operand, readForm3 absoluteY_leaves loadX_operand,
    immForm loadY_operand, readForm2 zeroPage_leaves loadY_operand, readForm2 zeroPageX_leaves loadY_operand,
    readForm3 absolute_leaves loadY_operand, readForm3 absoluteX_leaves loadY_operand⟩

/-- Settles O19: the bus write of the register under each addressing mode. -/
theorem storesEveryForm : Obligations.StoresEveryForm :=
  ⟨storeForm2 zeroPage_leaves, storeForm2 zeroPageX_leaves, storeForm3 absolute_leaves, storeForm3 absoluteX_leaves,
    storeForm3 absoluteY_leaves, storeForm2 indexedIndirect_leaves, storeForm2 indirectIndexed_leaves,
    storeForm2 zeroPage_leaves, storeForm2 zeroPageY_leaves, storeForm3 absolute_leaves,
    storeForm2 zeroPage_leaves, storeForm2 zeroPageX_leaves, storeForm3 absolute_leaves⟩

/-- Settles O20: a completed store is the bus write of `storesEveryForm`, whose frame is `busWriteChangesOnlyItsByte`. -/
theorem storesKeepEveryOtherByte : Obligations.StoresKeepEveryOtherByte := by
  intro s z w keeps
  have keeps2 : ∀ {op mn m cycles make reg}, StoreForm2 op mn m cycles make reg → keeps (make z) (m.ea s z) (reg s) :=
    fun ⟨_, stores⟩ => byteAt_of_storesAt (stores s z)
  have keeps3 : ∀ {op mn m cycles make reg}, StoreForm3 op mn m cycles make reg → keeps (make w) (m.ea s w) (reg s) :=
    fun ⟨_, stores⟩ => byteAt_of_storesAt (stores s w)
  obtain ⟨staZp, staZpx, staAbs, staAbx, staAby, staIzx, staIzy, stxZp, stxZpy, stxAbs, styZp, styZpx, styAbs⟩ :=
    storesEveryForm
  exact ⟨keeps2 staZp, keeps2 staZpx, keeps3 staAbs, keeps3 staAbx, keeps3 staAby, keeps2 staIzx, keeps2 staIzy,
    keeps2 stxZp, keeps2 stxZpy, keeps3 stxAbs, keeps2 styZp, keeps2 styZpx, keeps3 styAbs⟩

/-- Settles O21: TXS writes `SP` alone, the others copy with Z and N. -/
theorem transfersCopyRegisters : Obligations.TransfersCopyRegisters :=
  ⟨copyForm State.setX State.a, copyForm State.setY State.a, copyForm State.setA State.x, copyForm State.setA State.y,
    copyForm State.setX State.sp, encodes1_of_row rfl, fun _ => rfl⟩

end Sys2Proof.Proofs

/-! PROOF. The effects of an operand that the arithmetic, logic, compare and bit test instructions have, in the terms of
Safety.lean (41_arithmetic_logic.md R160 to R168), and the range tests that C and V stand for (10_state.md R32). -/

namespace Sys2Proof.Machine

open Sys2Proof.Safety

/-! The effects on A. -/

/-- `combineA op` has the effect `post` when `post` writes A and `P` with what `op` gives. -/
theorem combineA_operand {op : Byte → Byte → Status → Byte × Status} {post : Byte → State → State}
    (h : ∀ v r, post v r = (r.setA (op r.a v r.p).1).setP (op r.a v r.p).2) : EffectOfOperand (combineA op) post :=
  fun r k => by
    rw [h]
    rfl

theorem addCarry_operand : EffectOfOperand (combineA addCarry) adcResult := combineA_operand fun v r => by
  rw [addCarry_eq]
  rfl

theorem subCarry_operand : EffectOfOperand (combineA subCarry) sbcResult := combineA_operand fun v r => by
  rw [subCarry_eq]
  rfl

/-- A combination of A and the operand that sets Z and N alone (R162 to R164). -/
theorem plainResult_operand (f : Byte → Byte → Byte) : EffectOfOperand (combineA fun a m p => plainResult (f a m) p)
    fun v r => { r with a := f r.a v, p := withZN r.p (f r.a v) } := combineA_operand fun v r => by
  rw [plainResult, setZN_eq_withZN]
  rfl

theorem andByte_operand :
    EffectOfOperand (combineA andByte) fun v r => { r with a := r.a &&& v, p := withZN r.p (r.a &&& v) } :=
  plainResult_operand (· &&& ·)

theorem orByte_operand :
    EffectOfOperand (combineA orByte) fun v r => { r with a := r.a ||| v, p := withZN r.p (r.a ||| v) } :=
  plainResult_operand (· ||| ·)

theorem eorByte_operand :
    EffectOfOperand (combineA eorByte) fun v r => { r with a := r.a ^^^ v, p := withZN r.p (r.a ^^^ v) } :=
  plainResult_operand (· ^^^ ·)

/-! The effects on the flags alone. -/

/-- A compare of a register that the scratch is no part of (R165 to R167). -/
theorem compare_operand (reg : State → Byte) (hreg : ∀ r k, reg (r.setScratch k) = reg r := by exact fun _ _ => rfl) :
    EffectOfOperand (fun s => s.setP (compareFlags (reg s) s.scratch.m s.p))
      fun v r => { r with p := compareResult r.p (reg r) v } := fun r k => by
  beta_reduce
  rw [hreg, compareFlags_eq]
  rfl

theorem compareA_operand : EffectOfOperand compareA fun v r => { r with p := compareResult r.p r.a v } :=
  compare_operand State.a

theorem compareX_operand : EffectOfOperand compareX fun v r => { r with p := compareResult r.p r.x v } :=
  compare_operand State.x

theorem compareY_operand : EffectOfOperand compareY fun v r => { r with p := compareResult r.p r.y v } :=
  compare_operand State.y

/-- BIT in numbers (R168): Z from the conjunction, N and V from the operand. -/
theorem bitFlags_eq (a m : Byte) (p : Status) : bitFlags a m p =
    { p with z := decide ((a &&& m).toNat = 0), n := decide (0x80 ≤ m.toNat), v := m.getLsbD 6 } := by
  have zero : decide (a &&& m = 0#8) = decide ((a &&& m).toNat = 0) := by
    rw [decide_eq_decide, ← BitVec.toNat_inj]
    rfl
  rw [bitFlags, zero, bit_seven, bit]

theorem testA_operand : EffectOfOperand testA fun v r => { r with p := { r.p with
    z := decide ((r.a &&& v).toNat = 0), n := decide (0x80 ≤ v.toNat), v := v.getLsbD 6 } } := fun r k => by
  rw [testA, bitFlags_eq]
  rfl

/-! C and V as range tests of the exact result. -/

/-- Bytes agree in sign when both or neither is in the upper half. -/
theorem getLsbD_seven_eq_iff (a b : Byte) : a.getLsbD 7 = b.getLsbD 7 ↔ (0x80 ≤ a.toNat ↔ 0x80 ≤ b.toNat) := by
  rw [← bit, ← bit, bit_seven, bit_seven, decide_eq_decide]

theorem adcResult_a_toNat (v : Byte) (r : State) :
    (adcResult v r).a.toNat = (r.a.toNat + v.toNat + r.p.c.toNat) % 0x100 := BitVec.toNat_ofNat _ 8

theorem sbcResult_a_toNat (v : Byte) (r : State) :
    ((sbcResult v r).a.toNat : Int) = ((r.a.toNat : Int) - v.toNat - (1 - r.p.c.toNat)) % 0x100 := by
  have difference : (sbcResult v r).a.toNat =
      (((r.a.toNat : Int) - v.toNat - ((1 - r.p.c.toNat : Nat) : Int)) % 0x100).toNat := BitVec.toNat_ofInt _
  have := Bool.toNat_le r.p.c
  omega

/-- The sum of R160: A is its low byte and C its ninth bit. -/
theorem adcResult_exact (v : Byte) (r : State) :
    (adcResult v r).a.toNat + 256 * (adcResult v r).p.c.toNat = r.a.toNat + v.toNat + r.p.c.toNat := by
  have carry : (adcResult v r).p.c.toNat = if 0x100 ≤ r.a.toNat + v.toNat + r.p.c.toNat then 1 else 0 :=
    Bool.cond_decide _ _ _
  have := r.a.isLt
  have := v.isLt
  have := Bool.toNat_le r.p.c
  rw [adcResult_a_toNat, carry]
  split <;> omega

/-- The difference of R161: A is its low byte, and C is clear exactly when it borrows. -/
theorem sbcResult_exact (v : Byte) (r : State) :
    ((sbcResult v r).a.toNat : Int) =
      r.a.toNat - v.toNat - (1 - r.p.c.toNat) + 256 * (1 - (sbcResult v r).p.c.toNat) := by
  have noBorrow : (sbcResult v r).p.c.toNat = if v.toNat + (1 - r.p.c.toNat) ≤ r.a.toNat then 1 else 0 :=
    Bool.cond_decide _ _ _
  have := r.a.isLt
  have := v.isLt
  have := Bool.toNat_le r.p.c
  rw [sbcResult_a_toNat, noBorrow]
  split <;> omega

/-- V of R160: set exactly when the signed sum leaves the range of a byte. -/
theorem adcResult_overflow (v : Byte) (r : State) :
    (adcResult v r).p.v = true ↔
      r.a.toInt + v.toInt + r.p.c.toNat < -128 ∨ 127 < r.a.toInt + v.toInt + r.p.c.toNat := by
  have overflow : (adcResult v r).p.v =
      decide (r.a.getLsbD 7 = v.getLsbD 7 ∧ (adcResult v r).a.getLsbD 7 ≠ r.a.getLsbD 7) := rfl
  have sum := adcResult_a_toNat v r
  have := Bool.toNat_le r.p.c
  rw [overflow, decide_eq_true_iff, ne_eq, getLsbD_seven_eq_iff, getLsbD_seven_eq_iff, BitVec.toInt_eq_toNat_cond,
    BitVec.toInt_eq_toNat_cond]
  omega

/-- V of R161: set exactly when the signed difference leaves the range of a byte. -/
theorem sbcResult_overflow (v : Byte) (r : State) :
    (sbcResult v r).p.v = true ↔
      r.a.toInt - v.toInt - (1 - r.p.c.toNat) < -128 ∨ 127 < r.a.toInt - v.toInt - (1 - r.p.c.toNat) := by
  have overflow : (sbcResult v r).p.v =
      decide (r.a.getLsbD 7 ≠ v.getLsbD 7 ∧ (sbcResult v r).a.getLsbD 7 ≠ r.a.getLsbD 7) := rfl
  have difference := sbcResult_a_toNat v r
  have := Bool.toNat_le r.p.c
  rw [overflow, decide_eq_true_iff, ne_eq, ne_eq, getLsbD_seven_eq_iff, getLsbD_seven_eq_iff, BitVec.toInt_eq_toNat_cond,
    BitVec.toInt_eq_toNat_cond]
  omega

end Sys2Proof.Machine

/-! PROOF. The statements about arithmetic, logic and compares (41_arithmetic_logic.md), settled. -/

namespace Sys2Proof.Proofs

open Sys2Proof.Machine Sys2Proof.Safety

/-- Settles O22: the effect of `combineA addCarry` under each addressing mode. -/
theorem adcEveryForm : Obligations.AdcEveryForm :=
  ⟨immForm addCarry_operand, readForm2 zeroPage_leaves addCarry_operand, readForm2 zeroPageX_leaves addCarry_operand,
    readForm3 absolute_leaves addCarry_operand, readForm3 absoluteX_leaves addCarry_operand,
    readForm3 absoluteY_leaves addCarry_operand, readForm2 indexedIndirect_leaves addCarry_operand,
    readForm2 indirectIndexed_leaves addCarry_operand⟩

set_option maxRecDepth 1000 in
/-- Settles O23: the effect of `combineA subCarry` under each addressing mode. -/
theorem sbcEveryForm : Obligations.SbcEveryForm :=
  ⟨immForm subCarry_operand, readForm2 zeroPage_leaves subCarry_operand, readForm2 zeroPageX_leaves subCarry_operand,
    readForm3 absolute_leaves subCarry_operand, readForm3 absoluteX_leaves subCarry_operand,
    readForm3 absoluteY_leaves subCarry_operand, readForm2 indexedIndirect_leaves subCarry_operand,
    readForm2 indirectIndexed_leaves subCarry_operand⟩

/-- Settles O24: the immediate forms complete with `adcResult` and `sbcResult`, whose C and V are the range tests. -/
theorem addAndSubtractAreExactUpToFlags : Obligations.AddAndSubtractAreExactUpToFlags := by
  intro s m
  obtain ⟨⟨-, adcImm⟩, -⟩ := adcEveryForm
  obtain ⟨⟨-, sbcImm⟩, -⟩ := sbcEveryForm
  obtain ⟨_, -, -, adc⟩ := adcImm s m
  obtain ⟨_, -, -, sbc⟩ := sbcImm s m
  exact ⟨⟨_, adc, adcResult_exact m s, adcResult_overflow m s⟩,
    ⟨_, sbc, sbcResult_exact m s, sbcResult_overflow m s⟩⟩

/-- Settles O25: the effects of the three bitwise combinations under each addressing mode. -/
theorem logicEveryForm : Obligations.LogicEveryForm :=
  ⟨immForm andByte_operand, readForm2 zeroPage_leaves andByte_operand, readForm2 zeroPageX_leaves andByte_operand,
    readForm3 absolute_leaves andByte_operand, readForm3 absoluteX_leaves andByte_operand,
    readForm3 absoluteY_leaves andByte_operand, readForm2 indexedIndirect_leaves andByte_operand,
    readForm2 indirectIndexed_leaves andByte_operand,
    immForm orByte_operand, readForm2 zeroPage_leaves orByte_operand, readForm2 zeroPageX_leaves orByte_operand,
    readForm3 absolute_leaves orByte_operand, readForm3 absoluteX_leaves orByte_operand,
    readForm3 absoluteY_leaves orByte_operand, readForm2 indexedIndirect_leaves orByte_operand,
    readForm2 indirectIndexed_leaves orByte_operand,
    immForm eorByte_operand, readForm2 zeroPage_leaves eorByte_operand, readForm2 zeroPageX_leaves eorByte_operand,
    readForm3 absolute_leaves eorByte_operand, readForm3 absoluteX_leaves eorByte_operand,
    readForm3 absoluteY_leaves eorByte_operand, readForm2 indexedIndirect_leaves eorByte_operand,
    readForm2 indirectIndexed_leaves eorByte_operand⟩

set_option maxRecDepth 1000 in
/-- Settles O26: CMP has the eight modes of ADC, CPX and CPY three each. -/
theorem comparesEveryForm : Obligations.ComparesEveryForm :=
  ⟨immForm compareA_operand, readForm2 zeroPage_leaves compareA_operand, readForm2 zeroPageX_leaves compareA_operand,
    readForm3 absolute_leaves compareA_operand, readForm3 absoluteX_leaves compareA_operand,
    readForm3 absoluteY_leaves compareA_operand, readForm2 indexedIndirect_leaves compareA_operand,
    readForm2 indirectIndexed_leaves compareA_operand,
    immForm compareX_operand, readForm2 zeroPage_leaves compareX_operand, readForm3 absolute_leaves compareX_operand,
    immForm compareY_operand, readForm2 zeroPage_leaves compareY_operand, readForm3 absolute_leaves compareY_operand⟩

/-- Settles O27: the effect of `testA` under both addressing modes. -/
theorem bitEveryForm : Obligations.BitEveryForm :=
  ⟨readForm2 zeroPage_leaves testA_operand, readForm3 absolute_leaves testA_operand⟩

end Sys2Proof.Proofs

/-! PROOF. The forms of the read-modify-write instructions and of their counterparts on a register (42_shift_incdec.md R180 to
R190), for any operation on a byte and the flags. -/

namespace Sys2Proof.Machine

open Sys2Proof.Safety

/-- The operation answers `result` and `flags`. -/
abbrev Computes (op : Byte → Status → Byte × Status) (result : Byte → Status → Byte) (flags : Byte → Status → Status) : Prop :=
  ∀ v p, op v p = (result v p, flags v p)

section
variable {op : Byte} {mn : Mnemonic} {cycles : Nat}
variable {f : Byte → Status → Byte × Status} {result : Byte → Status → Byte} {flags : Byte → Status → Status}

/-- A read-modify-write instruction reads once and writes once at the address its mode leaves, the write in the state after
the read. -/
theorem modifiesAt_of_modifyMemory {i : Instr} {mode : State → Res State} {s : State} {ea : Addr} {crossed : Bool}
    (exec_eq : exec i s = modifyMemory mode f s) (hm : LeavesEa mode s ea crossed) (hf : Computes f result flags) :
    ModifiesAt i s ea crossed result flags := by
  obtain ⟨k, hk, fetched, -⟩ := hm
  obtain rfl : k.ea = ea := fetched.1
  rw [modifyMemory_eq hk] at exec_eq
  refine ⟨fun readable => ?_, fun stops => ?_⟩
  · obtain ⟨⟨v, r⟩, hr⟩ := busRead_completes readable
    rw [hr, Res.andThen_next, hf] at exec_eq
    refine ⟨v, r, hr, fun writable => ?_, fun stops => ?_⟩
    · obtain ⟨t, ht⟩ := busWrite_completes (result v s.p) writable
      rw [ht, Res.map_next] at exec_eq
      exact ⟨t, { k with m := v }, ht, fetched, rfl, exec_eq⟩
    · obtain ⟨e, he⟩ := busWrite_stops (result v s.p) stops
      rw [he, Res.map_fault] at exec_eq
      exact ⟨e, he, exec_eq⟩
  · obtain ⟨e, he⟩ := busRead_stops stops
    rw [he, Res.andThen_fault] at exec_eq
    exact ⟨e, he, exec_eq⟩

theorem modifyForm2 {m : ByteMode} {mode : Byte → State → Res State} {make : Byte → Instr}
    (hm : ∀ s z, LeavesEa (mode z) s (m.ea s z) (m.crossed s z)) (hf : Computes f result flags)
    (row : opRow op = some ⟨op, mn, m.mode, cycles, false, .byte make⟩ := by rfl)
    (exec_eq : ∀ z s, exec (make z) s = modifyMemory (mode z) f s := by exact fun _ _ => rfl) :
    ModifyForm2 op mn m cycles make result flags :=
  ⟨encodes2_of_row row, fun s z => modifiesAt_of_modifyMemory (exec_eq z s) (hm s z) hf⟩

theorem modifyForm3 {m : WordMode} {mode : Addr → State → Res State} {make : Addr → Instr}
    (hm : ∀ s w, LeavesEa (mode w) s (m.ea s w) (m.crossed s w)) (hf : Computes f result flags)
    (row : opRow op = some ⟨op, mn, m.mode, cycles, false, .word make⟩ := by rfl)
    (exec_eq : ∀ w s, exec (make w) s = modifyMemory (mode w) f s := by exact fun _ _ => rfl) :
    ModifyForm3 op mn m cycles make result flags :=
  ⟨encodes3_of_row row, fun s w => modifiesAt_of_modifyMemory (exec_eq w s) (hm s w) hf⟩

/-- The form on a register: `set` writes it with the result of the operation on `reg`. -/
theorem modifyRegisterForm {mode : Mode} {i : Instr} (set : State → Byte → State) (reg : State → Byte)
    (hf : Computes f result flags)
    (row : opRow op = some ⟨op, mn, mode, cycles, false, .none i⟩ := by rfl)
    (exec_eq : ∀ s, exec i s = .next ((set s (f (reg s) s.p).1).setP (f (reg s) s.p).2) := by exact fun _ => rfl) :
    PlainForm op mn mode cycles i fun s => (set s (result (reg s) s.p)).setP (flags (reg s) s.p) :=
  ⟨encodes1_of_row row, fun s => by rw [exec_eq, hf]⟩

end

end Sys2Proof.Machine

/-! PROOF. The statements about shifts, rotates, increments and decrements (42_shift_incdec.md), settled. -/

namespace Sys2Proof.Proofs

open Sys2Proof.Machine Sys2Proof.Safety

/-- Settles O29: each of the four operations under the same four addressing modes. -/
theorem memoryShiftsAndRotatesEveryForm : Obligations.MemoryShiftsAndRotatesEveryForm :=
  ⟨modifyForm2 zeroPage_leaves shiftLeft_eq, modifyForm2 zeroPageX_leaves shiftLeft_eq,
    modifyForm3 absolute_leaves shiftLeft_eq, modifyForm3 absoluteX_leaves shiftLeft_eq,
    modifyForm2 zeroPage_leaves shiftRight_eq, modifyForm2 zeroPageX_leaves shiftRight_eq,
    modifyForm3 absolute_leaves shiftRight_eq, modifyForm3 absoluteX_leaves shiftRight_eq,
    modifyForm2 zeroPage_leaves rotateLeft_eq, modifyForm2 zeroPageX_leaves rotateLeft_eq,
    modifyForm3 absolute_leaves rotateLeft_eq, modifyForm3 absoluteX_leaves rotateLeft_eq,
    modifyForm2 zeroPage_leaves rotateRight_eq, modifyForm2 zeroPageX_leaves rotateRight_eq,
    modifyForm3 absolute_leaves rotateRight_eq, modifyForm3 absoluteX_leaves rotateRight_eq⟩

set_option maxRecDepth 1000 in
/-- Settles O30: the two operations under the same four addressing modes. -/
theorem memoryIncrementsEveryForm : Obligations.MemoryIncrementsEveryForm :=
  ⟨modifyForm2 zeroPage_leaves increment_eq, modifyForm2 zeroPageX_leaves increment_eq,
    modifyForm3 absolute_leaves increment_eq, modifyForm3 absoluteX_leaves increment_eq,
    modifyForm2 zeroPage_leaves decrement_eq, modifyForm2 zeroPageX_leaves decrement_eq,
    modifyForm3 absolute_leaves decrement_eq, modifyForm3 absoluteX_leaves decrement_eq⟩

/-- Settles O28: the four operations of `memoryShiftsAndRotatesEveryForm` on A. -/
theorem accumulatorShiftsAndRotates : Obligations.AccumulatorShiftsAndRotates :=
  ⟨modifyRegisterForm State.setA State.a shiftLeft_eq, modifyRegisterForm State.setA State.a shiftRight_eq,
    modifyRegisterForm State.setA State.a rotateLeft_eq, modifyRegisterForm State.setA State.a rotateRight_eq⟩

set_option maxRecDepth 1000 in
/-- Settles O31: the two operations of `memoryIncrementsEveryForm` on X and on Y. -/
theorem indexIncrementsAndDecrements : Obligations.IndexIncrementsAndDecrements :=
  ⟨modifyRegisterForm State.setX State.x increment_eq, modifyRegisterForm State.setY State.y increment_eq,
    modifyRegisterForm State.setX State.x decrement_eq, modifyRegisterForm State.setY State.y decrement_eq⟩

end Sys2Proof.Proofs

/-! PROOF. Branches, jumps, calls and returns in the terms of Safety.lean (43_branch_jump.md R200 to R212): the branch target and
the page it is compared with, the two reads of an indirect jump, and a word pulled after it was pushed. -/

namespace Sys2Proof.Machine

open Sys2Proof.Safety

/-! Branches. -/

/-- The target of a branch in exact arithmetic (R200, 30_encoding.md R121). -/
theorem add_sext16 (w : Addr) (rel : Byte) : w + sext16 rel = BitVec.ofInt 16 ((w.toNat : Int) + rel.toInt) := by
  rw [BitVec.ofInt_add, BitVec.ofInt_natCast, BitVec.ofNat_toNat, BitVec.setWidth_eq]
  rfl

/-- A taken branch: the model's page test is that of `page` (D28). -/
theorem branchIf_true (rel : Byte) (s : State) : branchIf true rel s = .next { s with
    pc := s.pc + sext16 rel
    scratch := { s.scratch with
      ea := s.pc + sext16 rel
      extra := s.scratch.extra + if page (s.pc + sext16 rel) = page s.pc then 1 else 2 } } := by
  have cycles : (if page (s.pc + sext16 rel) = page s.pc then 1 else 2) =
      if hiByte (s.pc + sext16 rel) = hiByte s.pc then 1 else 2 := if_congr (hiByte_eq_iff _ _).symm rfl rfl
  rw [cycles]
  rfl

theorem branchIf_false (rel : Byte) (s : State) : branchIf false rel s = .next (relative rel s) := rfl

/-- An instruction that is `branchIf` of `cond` branches under `cond` (R200). -/
theorem branchForm {op : Byte} {mn : Mnemonic} {make : Byte → Instr} (cond : State → Bool)
    (row : opRow op = some ⟨op, mn, .rel, 2, false, .byte make⟩ := by rfl)
    (exec_eq : ∀ rel s, exec (make rel) s = branchIf (cond s) rel s := by exact fun _ _ => rfl) :
    BranchForm op mn make cond := by
  refine ⟨encodes2_of_row row, fun s rel => ?_⟩
  rw [exec_eq, ← add_sext16]
  refine ⟨fun taken => ?_, fun notTaken => ?_⟩
  · rw [taken, branchIf_true]
  · rw [notTaken, branchIf_false, relative]
    rfl

/-! The indirect jump. -/

/-- The second byte of a pointer is on the first one's page (30_encoding.md R118). -/
theorem nextInPage_append (hi lo : Byte) : nextInPage (hi ++ lo) = hi ++ (lo + 1#8) := by
  rw [← join, nextInPage, hiByte_join, loByte_join, join]

theorem busRead_scratch {a : Addr} {s t : State} {v : Byte} (h : busRead a s = .next (v, t)) : t.scratch = s.scratch := by
  rw [(busRead_frame h).1]
  rfl

/-- JMP indirect is two bus reads, the second in the state after the first (R209). -/
theorem exec_jmpInd_eq (p : Addr) (s : State) : exec (.jmpInd p) s =
    (busRead p s).andThen fun lo => (busRead (nextInPage p) lo.2).map fun hi =>
      (setEa (join hi.1 lo.1) hi.2).setPc (join hi.1 lo.1) := by
  show jumpTo (indirect p) s = _
  rw [jumpTo, indirect, readPair, Res.map_map]
  cases busRead p s with
  | fault f | refused f => rfl
  | next lo => rw [Res.andThen_next, Res.andThen_next, Res.map_map]; rfl

/-! Call and return. -/

/-- JSR's full next state: the two bytes of the address before the next instruction are on the stack (R210). -/
theorem exec_jsr_eq (w : Addr) (s : State) : exec (.jsr w) s = .next { s with
    pc := w, sp := s.sp - 2#8, scratch := { s.scratch with ea := w }
    ram := memWrite (memWrite s.ram (stackIndex s.sp) (hiByte (s.pc - 1#16))) (stackIndex (s.sp - 1#8))
      (loByte (s.pc - 1#16)) } := by
  show execJsr w s = _
  rw [execJsr, absolute, Res.andThen_next, pushWord_eq]
  rfl

theorem exec_rts_eq (s : State) : exec .rts s = (pullWord s).map fun r => r.2.setPc (r.1 + 1#16) := rfl

theorem stackIndex_sub_one_ne (sp : Byte) : stackIndex sp ≠ stackIndex (sp - 1#8) := by
  unfold stackIndex
  bv_omega

/-- A word is pulled as it was pushed, from any state with the `SP` and the work RAM that the pushes left: the high byte, pushed
first and at the other index, is not overwritten. -/
theorem pullWord_of_pushed {w : Addr} {s r : State} (sp : r.sp = s.sp - 2#8)
    (ram : r.ram = memWrite (memWrite s.ram (stackIndex s.sp) (hiByte w)) (stackIndex (s.sp - 1#8)) (loByte w)) :
    pullWord r = .next (w, r.setSp s.sp) := by
  have high : r.sp + 2#8 = s.sp := by rw [sp]; bv_omega
  have low : r.sp + 1#8 = s.sp - 1#8 := by rw [sp]; bv_omega
  have hi : memRead r.ram (stackIndex s.sp) = hiByte w := by
    rw [ram, memRead_memWrite_other (stackIndex_sub_one_ne s.sp), memRead_memWrite_same]
  have lo : memRead r.ram (stackIndex (s.sp - 1#8)) = loByte w := by rw [ram, memRead_memWrite_same]
  rw [pullWord_eq, high, low, ← stackIndex, ← stackIndex, hi, lo, join_hiByte_loByte]

end Sys2Proof.Machine

/-! PROOF. The statements about branches, jumps, calls and returns (43_branch_jump.md), settled. -/

namespace Sys2Proof.Proofs

open Sys2Proof.Machine Sys2Proof.Safety

set_option maxRecDepth 1000 in
/-- Settles O32: the common rule of the branches under each condition. -/
theorem branchesEveryCondition : Obligations.BranchesEveryCondition :=
  ⟨branchForm fun s => !s.p.c, branchForm fun s => s.p.c, branchForm fun s => s.p.z, branchForm fun s => !s.p.z,
    branchForm fun s => s.p.n, branchForm fun s => !s.p.n, branchForm fun s => !s.p.v, branchForm fun s => s.p.v⟩

/-- Settles O33: read by read; a read completes exactly where its address is readable. -/
theorem jmpAbsoluteAndIndirect : Obligations.JmpAbsoluteAndIndirect := by
  refine ⟨encodes3_of_row rfl, encodes3_of_row rfl, fun _ _ => rfl, fun s lo hi first => ?_, fun s p stops => ?_⟩
  · obtain ⟨⟨b, r⟩, hb⟩ := busRead_completes first
    have jump := exec_jmpInd_eq (hi ++ lo) s
    rw [hb, Res.andThen_next, nextInPage_append] at jump
    refine ⟨b, r, hb, fun second => ?_, fun stops => ?_⟩
    · obtain ⟨⟨d, t⟩, hd⟩ := busRead_completes second
      rw [hd, Res.map_next, setEa, busRead_scratch hd, busRead_scratch hb] at jump
      exact ⟨d, t, hd, jump⟩
    · obtain ⟨f, hf⟩ := busRead_stops stops
      rw [hf, Res.map_fault] at jump
      exact ⟨f, jump⟩
  · obtain ⟨f, hf⟩ := busRead_stops stops
    refine ⟨f, hf, ?_⟩
    rw [exec_jmpInd_eq, hf, Res.andThen_fault]

/-- Settles O34: the bytes `exec_jsr_eq` pushes, as numbers. -/
theorem jsrPushesTheAddressOfItsLastByte : Obligations.JsrPushesTheAddressOfItsLastByte := by
  refine ⟨encodes3_of_row rfl, fun s w => ?_⟩
  rw [exec_jsr_eq, hiByte_eq_ofNat, loByte_eq_ofNat]

/-- Settles O35: the word `pullWord` answers, and one more. -/
theorem rtsReturnsPastThePulledAddress : Obligations.RtsReturnsPastThePulledAddress := by
  refine ⟨encodes1_of_row rfl, fun s => ?_⟩
  rw [exec_rts_eq, pullWord_eq]
  rfl

/-- Settles O36: RTS pulls the word JSR pushed, and its +1 undoes JSR's -1. -/
theorem callThenReturnComesBack : Obligations.CallThenReturnComesBack := by
  refine fun s w => ⟨_, exec_jsr_eq w s, fun r sp ram => ?_⟩
  rw [exec_rts_eq, pullWord_of_pushed sp ram, Res.map_next, BitVec.sub_add_cancel]
  rfl

end Sys2Proof.Proofs

/-! PROOF. The stack instructions, BRK and RTI in the terms of Safety.lean (44_stack_flags_system.md R220 to R233,
60_exceptions.md R312, R313): what each pushes and pulls, and what comes back of a byte that was pushed. -/

namespace Sys2Proof.Machine

open Sys2Proof.Safety

/-- The form of a one-byte instruction, from its full next state. -/
theorem plainForm {op : Byte} {mn : Mnemonic} {mode : Mode} {cycles : Nat} {i : Instr} {post : State → State}
    (exec_eq : ∀ s, exec i s = .next (post s) := by exact fun _ => rfl)
    (row : opRow op = some ⟨op, mn, mode, cycles, false, .none i⟩ := by rfl) : PlainForm op mn mode cycles i post :=
  ⟨encodes1_of_row row, exec_eq⟩

/-! Pushes and pulls of a byte. -/

theorem exec_pha_eq (s : State) : exec .pha s = .next { s with
    sp := s.sp - 1#8, ram := memWrite s.ram (stackIndex s.sp) s.a } :=
  push_eq s.a s

theorem exec_php_eq (s : State) : exec .php s = .next { s with
    sp := s.sp - 1#8, ram := memWrite s.ram (stackIndex s.sp) (statusByte true s.p) } := by
  rw [← packP_eq_statusByte]
  exact push_eq (packP true s.p) s

theorem exec_pla_eq (s : State) : exec .pla s = .next { s with
    sp := s.sp + 1#8, a := memRead s.ram (stackIndex (s.sp + 1#8))
    p := withZN s.p (memRead s.ram (stackIndex (s.sp + 1#8))) } := by
  show execPla s = _
  rw [execPla, pull_eq, Res.map_next, setZN_eq_withZN]
  rfl

theorem exec_plp_eq_pull (s : State) : exec .plp s = (pull s).map fun r => r.2.setP (statusOf r.1) := by
  simp only [← unpackP_eq_statusOf]
  rfl

theorem exec_plp_eq (s : State) : exec .plp s = .next { s with
    sp := s.sp + 1#8, p := statusOf (memRead s.ram (stackIndex (s.sp + 1#8))) } := by
  rw [exec_plp_eq_pull, pull_eq]
  rfl

/-- A byte is pulled as it was pushed, from any state with the `SP` and the work RAM that the push left. -/
theorem pull_of_pushed {v : Byte} {s r : State} (sp : r.sp = s.sp - 1#8)
    (ram : r.ram = memWrite s.ram (stackIndex s.sp) v) : pull r = .next (v, r.setSp s.sp) := by
  rw [pull_eq, sp, BitVec.sub_add_cancel, ram, ← stackIndex, memRead_memWrite_same]

/-! The status byte. -/

/-- Bits 5 and 4 of a pushed status byte (10_state.md R33). -/
theorem statusByte_true_and (p : Status) : statusByte true p &&& 0x30#8 = 0x30#8 := by
  obtain ⟨n, v, u, b, d, i, z, c⟩ := p
  revert n v u b d i z c
  decide

/-- Pulling a status byte gives the six flags back, in the normal form of U and B (10_state.md R34, D6). -/
theorem statusOf_statusByte (brk : Bool) (p : Status) : statusOf (statusByte brk p) = { p with u := true, b := false } := by
  obtain ⟨n, v, u, b, d, i, z, c⟩ := p
  revert brk n v u b d i z c
  decide

/-! Interrupt entry and return. -/

/-- The entry through a vector `k` bytes below the top of the ROM window (60_exceptions.md R312). -/
theorem enterInterrupt_vectorWord {ret vector : Addr} {brk : Bool} {s : State} {c : Cartridge} {k : Nat}
    (h : vector.toNat = 0x10000 - k) (hk : 2 ≤ k) (hk' : k ≤ 6) (hc : s.cart = some c) :
    enterInterrupt ret brk vector s = .next { s with
      pc := vectorWord c k, sp := s.sp - 3#8, p := { s.p with i := true }
      ram := interruptFrame s.ram s.sp ret (statusByte brk s.p) } := by
  rw [enterInterrupt_eq (by omega) (by omega) hc, vector_eq_vectorWord h hk hk', packP_eq_statusByte, interruptFrame_eq]

/-- BRK is the entry that IRQ shares, returning past the padding byte (R232). -/
theorem exec_brk_eq (s : State) : exec .brk s = enterInterrupt (s.pc + 1#16) true vecIrq s := rfl

theorem exec_rti_eq (s : State) : exec .rti s = .next { s with
    sp := s.sp + 3#8, p := statusOf (memRead s.ram (stackIndex (s.sp + 1#8)))
    pc := memRead s.ram (stackIndex (s.sp + 3#8)) ++ memRead s.ram (stackIndex (s.sp + 2#8)) } := by
  rw [← unpackP_eq_statusOf]
  exact returnFromInterrupt_eq s

end Sys2Proof.Machine

/-! PROOF. The statements about the stack, the flags and the system instructions (44_stack_flags_system.md), settled. -/

namespace Sys2Proof.Proofs

open Sys2Proof.Machine Sys2Proof.Safety

/-- Settles O38: PLP pulls the byte PHP pushed, and the six flags are its six bits. -/
theorem statusRoundTripsThroughTheStack : Obligations.StatusRoundTripsThroughTheStack := by
  refine fun s => ⟨_, exec_php_eq s, ?_, fun r sp ram => ?_⟩
  · rw [memRead_memWrite_same, statusByte_true_and]
  · rw [exec_plp_eq_pull, pull_of_pushed sp ram, Res.map_next, statusOf_statusByte]
    rfl

/-- Settles O40: the interrupt entry, through the vector at 0xFFFE. -/
theorem brkEntersThroughTheIrqVector : Obligations.BrkEntersThroughTheIrqVector := by
  refine ⟨encodes1_of_row rfl, fun s c hc => ?_, fun s hc => ?_⟩
  · rw [exec_brk_eq, enterInterrupt_vectorWord (k := 2) rfl (by decide) (by decide) hc]
  · rw [exec_brk_eq, enterInterrupt_no_cart (by decide) hc]
    rfl

/-- Settles O37: one push or pull each. -/
theorem pushesAndPullsOfAccumulatorAndStatus : Obligations.PushesAndPullsOfAccumulatorAndStatus :=
  ⟨plainForm exec_pha_eq, plainForm exec_php_eq, plainForm exec_pla_eq, plainForm exec_plp_eq⟩

set_option maxRecDepth 1000 in
/-- Settles O39: each next state is the one the instruction's meaning writes out. -/
theorem flagInstructionsWriteOneFlag : Obligations.FlagInstructionsWriteOneFlag :=
  ⟨plainForm, plainForm, plainForm, plainForm, plainForm, plainForm, plainForm, plainForm⟩

/-- Settles O41: three pulls, the status byte first. -/
theorem rtiRestoresFlagsAndPc : Obligations.RtiRestoresFlagsAndPc :=
  plainForm exec_rti_eq

end Sys2Proof.Proofs

/-! PROOF. The VTU's registers and its own memory in the terms of Safety.lean (49_video_timing_unit.md R255 to R274): what each
port answers and stores, bit by bit where it writes a part of the composite address. -/

namespace Sys2Proof.Machine

open Sys2Proof.Safety

/-! The status register (R260). -/

/-- The high three bits of one byte above the low five of another, as a number. -/
theorem and_or_and_eq_ofNat (x y : Byte) :
    (x &&& 0xE0#8) ||| (y &&& 0x1F#8) = BitVec.ofNat 8 (x.toNat / 32 * 32 + y.toNat % 32) := by
  have high : ∀ x : Byte, (x &&& 0xE0#8).toNat = 2 ^ 5 * (x.toNat / 32) := by decide
  have low : ∀ y : Byte, (y &&& 0x1F#8).toNat = y.toNat % 32 := by decide
  have lt := x.isLt
  apply BitVec.eq_of_toNat_eq
  rw [BitVec.toNat_or, high, low, ← Nat.two_pow_add_eq_or_of_lt (Nat.mod_lt _ (by decide)), BitVec.toNat_ofNat]
  omega

theorem readStatus_eq (u : Vtu) : readStatus u = (BitVec.ofNat 8 (u.status.toNat / 32 * 32 + u.rbuf.toNat % 32),
    { u with status := u.status &&& 0x7F#8, w := false }) := by
  rw [readStatus, and_or_and_eq_ofNat, withBit7_false]

/-! The composite address `t` after a write, bit by bit (R258, R264, R267). -/

section
variable {u : Vtu} (v : Byte) (k : Nat)

theorem writeControl_t_getLsbD : (writeControl v u).t.getLsbD k =
    if k = 10 then v.getLsbD 0 else if k = 11 then v.getLsbD 1 else u.t.getLsbD k := by
  simp only [writeControl, BitVec.getLsbD_append, BitVec.getLsbD_extractLsb']
  grind

theorem writeScroll_first (hw : u.w = false) :
    writeScroll v u = { u with t := (writeScroll v u).t, w := true } := by
  simp [writeScroll, hw]

theorem writeScroll_first_t_getLsbD (hw : u.w = false) : (writeScroll v u).t.getLsbD k =
    if k < 5 then v.getLsbD (k + 3) else u.t.getLsbD k := by
  simp only [writeScroll, hw, Bool.false_eq_true, if_false, BitVec.getLsbD_append, BitVec.getLsbD_extractLsb']
  grind

theorem writeScroll_second (hw : u.w = true) :
    writeScroll v u = { u with t := (writeScroll v u).t, w := false } := by
  simp [writeScroll, hw]

theorem writeScroll_second_t_getLsbD (hw : u.w = true) : (writeScroll v u).t.getLsbD k =
    if 5 ≤ k ∧ k < 10 then v.getLsbD (k - 2) else if 12 ≤ k ∧ k < 15 then v.getLsbD (k - 12) else u.t.getLsbD k := by
  simp only [writeScroll, hw, if_true, BitVec.getLsbD_append, BitVec.getLsbD_extractLsb']
  grind

theorem writeAddress_first (hw : u.w = false) :
    writeAddress v u = { u with t := (writeAddress v u).t, w := true } := by
  simp [writeAddress, hw]

theorem writeAddress_first_t_getLsbD (hw : u.w = false) : (writeAddress v u).t.getLsbD k =
    if k < 8 then u.t.getLsbD k else if k < 14 then v.getLsbD (k - 8) else false := by
  simp only [writeAddress, hw, Bool.false_eq_true, if_false, BitVec.getLsbD_append, BitVec.getLsbD_extractLsb']
  grind

theorem writeAddress_second (hw : u.w = true) :
    writeAddress v u = { u with t := (writeAddress v u).t, v := (writeAddress v u).t, w := false } := by
  simp [writeAddress, hw]

theorem writeAddress_second_t_getLsbD (hw : u.w = true) : (writeAddress v u).t.getLsbD k =
    if k < 8 then v.getLsbD k else u.t.getLsbD k := by
  simp only [writeAddress, hw, if_true, BitVec.getLsbD_append, BitVec.getLsbD_extractLsb']
  grind

end

/-! The ports on the bus: a register at any of its mirrors (R255). -/

section
variable {a : Addr} (h : 0x2000 ≤ a.toNat) (h' : a.toNat < 0x4000)
include h h'

theorem busRead_statusPort (s : State) (hs : a.toNat % 8 = 2) :
    busRead a s = .next ((readStatus s.vtu).1, s.setVtu (readStatus s.vtu).2) := by
  rw [busRead_port s h h', portOf_eq_status_iff.mpr hs, readPort, Res.map_next]

/-- A write at a mirror of the register at `r`, whose port always stores. -/
theorem busWrite_mirror {r : Addr} {v : Byte} {s : State} {u : Vtu} (hr : a.toNat % 8 = r.toNat % 8)
    (hu : writePort (portOf r) a s.cart s.config v s.vtu = .next u) : busWrite a v s = .next (s.setVtu u) := by
  rw [busWrite_port v s h h', portOf_congr hr, hu, Res.map_next]

end

/-! The data port: the VRAM byte, then the advance of `v` (R265, R266, R274). -/

section
variable {s : State} {c : Cartridge}

theorem vramRead_port_palette (hn : 0x3F00 ≤ portVramAddr s) :
    vramRead s.cart s.config s.vtu (vramAddr s.vtu.v) = .next (memRead s.vtu.pal (paletteByte (portVramAddr s))) := by
  rw [← vramAddr_eq_portVramAddr] at hn ⊢
  rw [vramRead_palette hn, palIndex_eq_paletteByte]

theorem vramRead_port_of_cart (hc : s.cart = some c)
    (hn : 0x2000 ≤ portVramAddr s ∨ portVramAddr s < 0x2000 * c.chrBanks) :
    vramRead s.cart s.config s.vtu (vramAddr s.vtu.v) = .next (
      if portVramAddr s < 0x2000 then memRead c.chr (portVramAddr s)
      else if portVramAddr s < 0x3F00 then
        memRead s.vtu.nt (nametableByte s.config.ntFold c.mirroring (portVramAddr s))
      else memRead s.vtu.pal (paletteByte (portVramAddr s))) := by
  by_cases palette : 0x3F00 ≤ portVramAddr s
  · rw [vramRead_port_palette palette, if_neg (by omega), if_neg (by omega)]
  rw [← vramAddr_eq_portVramAddr] at hn palette ⊢
  rw [hc]
  by_cases pattern : (vramAddr s.vtu.v).toNat < 0x2000
  · rw [vramRead_pattern pattern, readChr_inside (by omega), if_pos pattern]
  · rw [vramRead_nametable (by omega) (by omega), ntIndex_eq_nametableByte, if_neg pattern, if_pos (by omega)]

theorem vramWrite_port_of_cart (x : Byte) (hc : s.cart = some c) :
    vramWrite s.cart s.config s.vtu (vramAddr s.vtu.v) x = .next { s.vtu with
      nt := if 0x2000 ≤ portVramAddr s ∧ portVramAddr s < 0x3F00 then
        memWrite s.vtu.nt (nametableByte s.config.ntFold c.mirroring (portVramAddr s)) x else s.vtu.nt
      pal := if 0x3F00 ≤ portVramAddr s then memWrite s.vtu.pal (paletteByte (portVramAddr s)) x else s.vtu.pal } := by
  rw [← vramAddr_eq_portVramAddr, hc]
  by_cases pattern : (vramAddr s.vtu.v).toNat < 0x2000
  · rw [vramWrite_pattern x pattern, if_neg (by omega), if_neg (by omega)]
  by_cases palette : 0x3F00 ≤ (vramAddr s.vtu.v).toNat
  · rw [vramWrite_palette x palette, palIndex_eq_paletteByte, if_neg (by omega), if_pos palette]
  · rw [vramWrite_nametable x (by omega) (by omega), ntIndex_eq_nametableByte, if_pos (by omega), if_neg palette]

variable {a : Addr} (h : 0x2000 ≤ a.toNat) (h' : a.toNat < 0x4000) (hd : a.toNat % 8 = 7)
include h h' hd

/-- A data-port read whose VRAM read completes (R265): the byte at once in palette space, the old buffer elsewhere. -/
theorem busRead_dataPort_of_vramRead {byte : Byte}
    (hb : vramRead s.cart s.config s.vtu (vramAddr s.vtu.v) = .next byte) :
    busRead a s = .next (if 0x3F00 ≤ portVramAddr s then byte else s.vtu.rbuf, { s with vtu := { s.vtu with
      rbuf := byte, v := BitVec.ofNat 15 (s.vtu.v.toNat + if s.vtu.ctrl.getLsbD 2 = true then 32 else 1) } }) := by
  rw [busRead_dataPort h h' hd, readData, hb, vramAddr_eq_portVramAddr, ← vramStep_add]
  rfl

/-- A data-port write whose VRAM write completes with `u` (R266). -/
theorem busWrite_dataPort_of_vramWrite {x : Byte} {u : Vtu}
    (hu : vramWrite s.cart s.config s.vtu (vramAddr s.vtu.v) x = .next u) :
    busWrite a x s = .next { s with vtu := { u with
      v := BitVec.ofNat 15 (u.v.toNat + if u.ctrl.getLsbD 2 = true then 32 else 1) } } := by
  rw [busWrite_dataPort h h' x hd, writeData, hu, ← vramStep_add]
  rfl

end

/-! The folds (R272, R273). -/

theorem nametableByte_lt (fold : NtFold) (mirroring : Mirroring) (n : Nat) : nametableByte fold mirroring n < 0x800 := by
  cases fold <;> cases mirroring <;> simp only [nametableByte] <;> omega

theorem paletteByte_not_alias (n : Nat) : ¬ (16 ≤ paletteByte n ∧ paletteByte n % 4 = 0) := by
  simp only [paletteByte]
  split <;> omega

end Sys2Proof.Machine

/-! PROOF. The VTU's ticks (49_video_timing_unit.md R252 to R254): the counters by case, when the NMI is raised, and a frame by
induction on its ticks. -/

namespace Sys2Proof.Machine

open Sys2Proof.Safety

/-! One tick: the counters by case, and when the NMI is raised (R253, R254). -/

section
variable {u : Vtu}

theorem Vtu.count_sameLine (h : u.cycle < 340) : u.count = { u with cycle := u.cycle + 1 } :=
  if_pos (Nat.succ_lt_succ h)

theorem Vtu.count_newLine (h : u.cycle = 340) (h1 : u.scanline ≠ 240) (h2 : u.scanline < 261) :
    u.count = { u with cycle := 0, scanline := u.scanline + 1 } := by
  rcases u.count_cases with ⟨_, -⟩ | ⟨-, _, -⟩ | ⟨-, _, -⟩ | ⟨-, -, -, e⟩
  case inr.inr.inr => exact e
  all_goals omega

theorem Vtu.count_vblank (h : u.cycle = 340) (h1 : u.scanline = 240) :
    u.count = { u with cycle := 0, scanline := 241, status := u.status ||| 0x80#8 } := by
  rcases u.count_cases with ⟨_, -⟩ | ⟨-, _, -⟩ | ⟨-, -, e⟩ | ⟨-, -, _, -⟩
  case inr.inr.inl => rw [e, h1, withBit7_true]
  all_goals omega

theorem Vtu.count_newFrame (h : u.cycle = 340) (h1 : u.scanline = 261) :
    u.count = { u with cycle := 0, scanline := 0, status := u.status &&& 0x7F#8 } := by
  rcases u.count_cases with ⟨_, -⟩ | ⟨-, -, e⟩ | ⟨-, _, -⟩ | ⟨-, _, -, -⟩
  case inr.inl => rw [e, withBit7_false]
  all_goals omega

theorem Vtu.raisesNmi_iff : u.raisesNmi = true ↔ 340 ≤ u.cycle ∧ u.scanline = 240 ∧ u.ctrl.getLsbD 7 = true := by
  rw [Vtu.raisesNmi, Bool.and_eq_true, Bool.and_eq_true, decide_eq_true_eq, decide_eq_true_eq, and_assoc]
  exact and_congr Nat.succ_le_succ_iff (and_congr Nat.succ_inj Iff.rfl)

end

theorem tickClock_of_raises {s : State} {u : Vtu} (h : s.vtu.raisesNmi = true) (e : s.vtu.count = u) :
    tickClock s = nmi { s with vtu := u } := by
  subst e; exact if_pos h

theorem tickClock_of_not_raises {s : State} {u : Vtu}
    (h : ¬ (340 ≤ s.vtu.cycle ∧ s.vtu.scanline = 240 ∧ s.vtu.ctrl.getLsbD 7 = true)) (e : s.vtu.count = u) :
    tickClock s = .next { s with vtu := u } := by
  subst e; exact if_neg (mt Vtu.raisesNmi_iff.mp h)

/-! A frame (R254): the ticks counted from scanline 0, cycle 0. It has 89342 = 262 * 341 ticks; line 241 starts at tick
82181 = 241 * 341. -/

/-- The VTU `k` ticks into a frame that started as `u`: `k / 341` whole lines, and VBlank from line 241 on. -/
def frameVtu (u : Vtu) (k : Nat) : Vtu := { u with
  scanline := k / 341, cycle := k % 341, status := if 82181 ≤ k then u.status ||| 0x80#8 else u.status }

/-- The processor `k` ticks into a frame: past the NMI entry from line 241 on, where the NMI is enabled. -/
def frameEntry (s : State) (k : Nat) : Res State :=
  if 82181 ≤ k ∧ s.vtu.ctrl.getLsbD 7 = true then nmi s else .next s

theorem frameVtu_zero {u : Vtu} (hs : u.scanline = 0) (hc : u.cycle = 0) : frameVtu u 0 = u := by
  cases u; cases hs; cases hc; rfl

/-- Tick 82181 sets VBlank; no other tick of the frame changes it. -/
theorem frameVtu_count (u : Vtu) {k : Nat} (hk : k + 1 < 89342) : (frameVtu u k).count = frameVtu u (k + 1) := by
  rcases eq_or_ne k 82180 with rfl | other
  · exact Vtu.count_vblank rfl rfl
  have vblank : 82181 ≤ k ↔ 82181 ≤ k + 1 := by omega
  rcases Nat.lt_or_ge (k % 341) 340 with sameLine | lineEnd
  · rw [Vtu.count_sameLine sameLine]
    simp only [frameVtu, vblank, show (k + 1) / 341 = k / 341 by omega, show (k + 1) % 341 = k % 341 + 1 by omega]
  · rw [Vtu.count_newLine (show k % 341 = 340 by omega) (show k / 341 ≠ 240 by omega) (show k / 341 < 261 by omega)]
    simp only [frameVtu, vblank, show (k + 1) / 341 = k / 341 + 1 by omega, show (k + 1) % 341 = 0 by omega]

/-- The last tick of the frame clears VBlank, which was set. -/
theorem frameVtu_count_last (u : Vtu) :
    (frameVtu u 89341).count = { u with scanline := 0, cycle := 0, status := u.status &&& 0x7F#8 } := by
  have clears : ∀ b : Byte, (b ||| 0x80#8) &&& 0x7F#8 = b &&& 0x7F#8 := by decide
  rw [Vtu.count_newFrame rfl rfl, ← clears u.status]
  rfl

theorem frameVtu_raisesNmi_iff (u : Vtu) (k : Nat) :
    (frameVtu u k).raisesNmi = true ↔ k = 82180 ∧ u.ctrl.getLsbD 7 = true := by
  have tick : 340 ≤ k % 341 ∧ k / 341 = 240 ↔ k = 82180 := by omega
  rw [Vtu.raisesNmi_iff, ← and_assoc, ← tick]
  rfl

/-- A tick sees of the machine outside the VTU only what the NMI entry sees. -/
theorem tickClock_setVtu (s : State) (u : Vtu) : tickClock (s.setVtu u) =
    Res.map (if u.raisesNmi = true then nmi s else .next s) fun t => t.setVtu u.count := by
  rw [tickClock, State.setVtu_vtu]
  split
  · exact nmi_setVtu s u.count
  · rfl

/-- A tick of the frame enters the NMI once: from line 241's first tick on the entry has been taken. -/
theorem frameEntry_tick (s : State) (k : Nat) :
    ((frameEntry s k).map fun t => t.setVtu (frameVtu s.vtu k)).andThen tickClock =
      (frameEntry s (k + 1)).map fun t => t.setVtu (frameVtu s.vtu k).count := by
  by_cases raises : (frameVtu s.vtu k).raisesNmi = true
  · obtain ⟨rfl, enabled⟩ := (frameVtu_raisesNmi_iff s.vtu k).mp raises
    have before : frameEntry s 82180 = .next s := if_neg (by omega)
    have after : frameEntry s 82181 = nmi s := if_pos ⟨Nat.le_refl _, enabled⟩
    rw [before, after, Res.map_next, Res.andThen_next, tickClock_setVtu, if_pos raises]
  · have taken : 82181 ≤ k + 1 ∧ s.vtu.ctrl.getLsbD 7 = true ↔ 82181 ≤ k ∧ s.vtu.ctrl.getLsbD 7 = true :=
      and_congr_left fun enabled => by
        have other : k ≠ 82180 := fun e => raises ((frameVtu_raisesNmi_iff s.vtu k).mpr ⟨e, enabled⟩)
        omega
    have same : frameEntry s (k + 1) = frameEntry s k := by simp only [frameEntry, taken]
    rw [same]
    cases frameEntry s k with
    | next t => rw [Res.map_next, Res.andThen_next, tickClock_setVtu, if_neg raises]
    | fault f => rfl
    | refused r => rfl

/-- `k` ticks from the start of a frame, within the frame. -/
theorem clockTicks_frame {s : State} (hs : s.vtu.scanline = 0) (hc : s.vtu.cycle = 0) {k : Nat} (hk : k < 89342) :
    clockTicks k s = (frameEntry s k).map fun t => t.setVtu (frameVtu s.vtu k) := by
  induction k with
  | zero => rw [frameVtu_zero hs hc]; rfl
  | succ k ih => rw [clockTicks_succ_last, ih (Nat.lt_of_succ_lt hk), frameEntry_tick, frameVtu_count s.vtu hk]

end Sys2Proof.Machine

/-! PROOF. The statements about the video timing unit (49_video_timing_unit.md), settled. -/

namespace Sys2Proof.Proofs

open Sys2Proof.Machine Sys2Proof.Safety

/-- Settles O47: the answer of `readStatus`, as numbers. -/
theorem statusReadClearsVblankAndToggle : Obligations.StatusReadClearsVblankAndToggle := by
  intro s a h h' port
  rw [busRead_statusPort h h' s port, readStatus_eq]
  rfl

/-- Settles O48: each port's effect, and the two bits that register 0 puts into `t`. -/
theorem storingPortsStoreTheirRegister : Obligations.StoringPortsStoreTheirRegister := by
  refine fun s a v h h' => ⟨fun port => ?_, fun port => ?_, fun port => ?_, fun port => ?_⟩
  · exact ⟨_, busWrite_mirror (r := 0x2000#16) h h' port rfl, writeControl_t_getLsbD v⟩
  · exact busWrite_mirror (r := 0x2001#16) h h' port rfl
  · exact busWrite_mirror (r := 0x2003#16) h h' port rfl
  · exact busWrite_mirror (r := 0x2004#16) h h' port rfl

/-- Settles O49: the port by the toggle, and the bits each of the four steps puts into `t`. -/
theorem twoStepPortsShareOneToggle : Obligations.TwoStepPortsShareOneToggle := by
  intro s a v h h'
  have scroll (port : a.toNat % 8 = 5) : busWrite a v s = .next (s.setVtu (writeScroll v s.vtu)) :=
    busWrite_mirror (r := 0x2005#16) h h' port rfl
  have address (port : a.toNat % 8 = 6) : busWrite a v s = .next (s.setVtu (writeAddress v s.vtu)) :=
    busWrite_mirror (r := 0x2006#16) h h' port rfl
  refine ⟨fun port hw => ⟨_, ?_, fun k => writeScroll_first_t_getLsbD v k hw⟩,
    fun port hw => ⟨_, ?_, fun k => writeScroll_second_t_getLsbD v k hw⟩,
    fun port hw => ⟨_, ?_, fun k => writeAddress_first_t_getLsbD v k hw⟩,
    fun port hw => ⟨_, ?_, fun k => writeAddress_second_t_getLsbD v k hw⟩⟩
  · rw [scroll port, writeScroll_first v hw]; rfl
  · rw [scroll port, writeScroll_second v hw]; rfl
  · rw [address port, writeAddress_first v hw]; rfl
  · rw [address port, writeAddress_second v hw]; rfl

/-- Settles O50: the VRAM byte by the range of the address; with no graphics bank there, the fault of the VRAM read. -/
theorem dataPortReadsAreDelayedExceptInPaletteSpace : Obligations.DataPortReadsAreDelayedExceptInPaletteSpace := by
  refine fun s a h h' hd => ⟨fun c hc hn => ?_, fun hn => ?_, fun c hc pattern outside => ?_⟩
  · exact busRead_dataPort_of_vramRead h h' hd (vramRead_port_of_cart hc hn)
  · have answer := busRead_dataPort_of_vramRead h h' hd (vramRead_port_palette hn)
    rwa [if_pos hn] at answer
  · refine busRead_dataPort_fault h h' hd (vramRead_stops_no_bank ?_ hc)
    simp only [dataReadable, hc, Bool.or_eq_false_iff, decide_eq_false_iff_not]
    omega

/-- Settles O51: the VRAM write by the range of the address, then the advance. -/
theorem dataPortWritesStoreAndAdvance : Obligations.DataPortWritesStoreAndAdvance :=
  fun _ _ _ x h h' hd hc => busWrite_dataPort_of_vramWrite h h' hd (vramWrite_port_of_cart x hc)

/-- Settles O52: the model's folds are the arithmetic ones, whose cases `nametableByte` and `paletteByte` write out. -/
theorem nametableAndPaletteFolds : Obligations.NametableAndPaletteFolds :=
  fun a => ⟨fun fold mirroring => ⟨ntIndex_eq_nametableByte fold mirroring a, nametableByte_lt fold mirroring _⟩,
    rfl, rfl, rfl, rfl, palIndex_eq_paletteByte a, palIndex_lt a, paletteByte_not_alias _⟩

/-- Settles O53: the five cases of the count; only entering scanline 241 can raise the NMI. -/
theorem clockTickCountsAndRaisesNmi : Obligations.ClockTickCountsAndRaisesNmi := by
  intro s _ hc hs
  refine ⟨fun c => ?_, fun c l l' => ?_, fun c l off => ?_, fun c l on => ?_, fun c l => ?_⟩
  · exact tickClock_of_not_raises (by omega) (Vtu.count_sameLine c)
  · exact tickClock_of_not_raises (by omega) (Vtu.count_newLine c l (by omega))
  · exact tickClock_of_not_raises (fun ⟨_, _, on⟩ => Bool.eq_false_iff.mp off on) (Vtu.count_vblank c l)
  · exact tickClock_of_raises (Vtu.raisesNmi_iff.mpr ⟨c.ge, l, on⟩) (Vtu.count_vblank c l)
  · exact tickClock_of_not_raises (by omega) (Vtu.count_newFrame c l)

/-- Settles O54: induction on the ticks of the frame; the one tick left starts the next frame. -/
theorem frameTimingAndOneNmiPerFrame : Obligations.FrameTimingAndOneNmiPerFrame := by
  refine fun s k _ hs hc => ⟨clockTicks_frame hs hc, ?_⟩
  rw [clockTicks_succ_last, clockTicks_frame hs hc (by omega), frameEntry_tick, frameVtu_count_last]
  simp only [frameEntry, show 82181 ≤ 89341 + 1 by omega, true_and]
  rfl

end Sys2Proof.Proofs

/-! PROOF. The signals in the terms of Safety.lean (60_exceptions.md R305 to R313): the entry of each, RTI over the frame an
entry leaves on the stack, and a step with host calls due. -/

namespace Sys2Proof.Machine

open Sys2Proof.Safety

/-! The entry of a signal. -/

/-- The entry is what `Irq` does when it is not masked (R305). -/
theorem irq_eq_entry {s : State} (h : s.fault = none) (hi : s.p.i = false) :
    irq s = (enterInterrupt s.pc false vecIrq s).map addIntCycles := by
  rw [irq, h, hi]
  rfl

/-- A masked `Irq` is nothing, whether or not a fault is recorded (R305). -/
theorem irq_of_masked {s : State} (hi : s.p.i = true) : irq s = .next s := by
  cases h : s.fault with
  | some f => exact irq_of_fault h
  | none =>
    rw [irq, h, hi]
    rfl

/-- A signal's entry through a vector `k` bytes below the top of the ROM window: the entry, then `INT_CYCLES` (R307, R312). -/
theorem signalEntry_vectorWord {vector : Addr} {s : State} {c : Cartridge} {k : Nat}
    (h : vector.toNat = 0x10000 - k) (hk : 2 ≤ k) (hk' : k ≤ 6) (hc : s.cart = some c) :
    (enterInterrupt s.pc false vector s).map addIntCycles = .next { s with
      pc := vectorWord c k, sp := s.sp - 3#8, p := { s.p with i := true }, cyc := s.cyc + s.config.intCycles
      ram := interruptFrame s.ram s.sp s.pc (statusByte false s.p) } := by
  rw [enterInterrupt_vectorWord h hk hk' hc, Res.map_next]
  rfl

theorem nmi_of_cart {s : State} {c : Cartridge} (h : s.fault = none) (hc : s.cart = some c) : nmi s = .next { s with
    pc := vectorWord c 6, sp := s.sp - 3#8, p := { s.p with i := true }, cyc := s.cyc + s.config.intCycles
    ram := interruptFrame s.ram s.sp s.pc (statusByte false s.p) } := by
  rw [nmi_eq_entry h, signalEntry_vectorWord (k := 6) rfl (by decide) (by decide) hc]

/-! RTI over an entry's frame. -/

theorem stackIndex_injective : Function.Injective stackIndex :=
  fun _ _ h => BitVec.eq_of_toNat_eq (Nat.add_left_cancel h)

section
variable (ram : Memory) (sp : Byte) (ret : Addr) (status : Byte)

theorem memRead_interruptFrame_status :
    memRead (interruptFrame ram sp ret status) (stackIndex (sp - 2#8)) = status :=
  memRead_memWrite_same _ _ _

theorem memRead_interruptFrame_lo :
    memRead (interruptFrame ram sp ret status) (stackIndex (sp - 1#8)) = loByte ret := by
  have status_below : stackIndex (sp - 1#8) ≠ stackIndex (sp - 2#8) := stackIndex_injective.ne (by bv_omega)
  rw [interruptFrame, memRead_memWrite_other status_below, memRead_memWrite_same, loByte_eq_ofNat]

theorem memRead_interruptFrame_hi :
    memRead (interruptFrame ram sp ret status) (stackIndex sp) = hiByte ret := by
  have status_below : stackIndex sp ≠ stackIndex (sp - 2#8) := stackIndex_injective.ne (by bv_omega)
  rw [interruptFrame, memRead_memWrite_other status_below, memRead_memWrite_other (stackIndex_sub_one_ne sp),
    memRead_memWrite_same, hiByte_eq_ofNat]

end

/-- RTI takes an entry's frame off the stack, from any state with the `SP` and the work RAM that the entry left (R313). -/
theorem exec_rti_of_interruptFrame {ram : Memory} {sp : Byte} {ret : Addr} {brk : Bool} {p : Status} {r : State}
    (hsp : r.sp = sp - 3#8) (hram : r.ram = interruptFrame ram sp ret (statusByte brk p)) :
    exec .rti r = .next { r with pc := ret, sp := sp, p := { p with u := true, b := false } } := by
  have first : r.sp + 1#8 = sp - 2#8 := by rw [hsp]; bv_omega
  have second : r.sp + 2#8 = sp - 1#8 := by rw [hsp]; bv_omega
  have third : r.sp + 3#8 = sp := by rw [hsp]; bv_omega
  rw [exec_rti_eq, first, second, third, hram, memRead_interruptFrame_status, memRead_interruptFrame_lo,
    memRead_interruptFrame_hi, statusOf_statusByte, ← join, join_hiByte_loByte]

/-! A step with host calls due (R309, R311). -/

theorem step_of_no_fault {s : State} (h : s.fault = none) : step s = (takeHostCalls s).andThen masterStep := by
  rw [step, runStep, h]

theorem takeHostCalls_cons {s : State} {calls : List Signal} {later : List (List Signal)}
    (h : s.hostCalls = calls :: later) : takeHostCalls s = signals calls (s.setHostCalls later) := by
  rw [takeHostCalls, h]

end Sys2Proof.Machine

/-! PROOF. The statements about the signals and the host's calls (60_exceptions.md), settled. -/

namespace Sys2Proof.Proofs

open Sys2Proof.Machine Sys2Proof.Safety

/-- Settles O44: RTI takes off the stack the frame that `nmi_of_cart` says Nmi left there. -/
theorem rtiUndoesAnInterruptEntry : Obligations.RtiUndoesAnInterruptEntry :=
  fun _ _ h hc => ⟨_, nmi_of_cart h hc, fun _ => exec_rti_of_interruptFrame⟩

/-- Settles O43: the entry through the vector at 0xFFFA, with no test of I. -/
theorem nmiIsNeverMasked : Obligations.NmiIsNeverMasked := by
  refine ⟨fun s c h hc => nmi_of_cart h hc, fun s h hc => ?_⟩
  rw [nmi_eq_entry h, enterInterrupt_no_cart (by decide) hc]
  rfl

/-- Settles O42: nothing when masked; else the entry through the vector at 0xFFFE. -/
theorem irqEntersUnlessMasked : Obligations.IrqEntersUnlessMasked := by
  refine ⟨fun s hi => irq_of_masked hi, fun s c h hi hc => ?_, fun s h hi hc => ?_⟩
  · rw [irq_eq_entry h hi, signalEntry_vectorWord (k := 2) rfl (by decide) (by decide) hc]
  · rw [irq_eq_entry h hi, enterInterrupt_no_cart (by decide) hc]
    rfl

/-- Settles O7: the step takes the script's first entry and makes its calls, the first one before the rest. -/
theorem hostCallsComeBeforeTheStep : Obligations.HostCallsComeBeforeTheStep := by
  refine fun s calls later hf hc => ⟨?_, fun c rest e => ?_⟩
  · rw [step_of_no_fault hf, takeHostCalls_cons hc]
    rfl
  · rw [e]
    rfl

end Sys2Proof.Proofs

/-! PROOF. `Reset` in the terms of Safety.lean (70_reset_and_hazards.md R342, R343): its two outcomes with no fault recorded. -/

namespace Sys2Proof.Machine

open Sys2Proof.Safety

/-- `Reset` with a cartridge takes `PC` from the vector word four bytes below the top of the ROM window (R342). -/
theorem resetSignal_vectorWord {s : State} {c : Cartridge} (h : s.fault = none) (hc : s.cart = some c) :
    resetSignal s = .next { s with pc := vectorWord c 4, p := { s.p with i := true }, cyc := 7 } := by
  have word : join (readPrg c (vecReset + 1#16)) (readPrg c vecReset) = vectorWord c 4 :=
    vector_eq_vectorWord rfl (by decide) (by decide)
  rw [resetSignal_of_cart h hc, word]
  rfl

/-- `Reset` without a cartridge stops at the first byte of the vector (20_memory.md R91). -/
theorem resetSignal_no_cart {s : State} (h : s.fault = none) (hc : s.cart = none) :
    resetSignal s = .fault (.missingCartridge vecReset.toNat) := by
  have cart : (s.setP { s.p with i := true }).cart = none := hc
  rw [resetSignal, h]
  simp only [read16_no_cart (a := vecReset) (by decide) cart, Res.map_fault]

end Sys2Proof.Machine

/-! PROOF. The statement about `Reset` (70_reset_and_hazards.md), settled. -/

namespace Sys2Proof.Proofs

open Sys2Proof.Machine

/-- Settles O45: the vector's two ROM bytes are all that `Reset` reads, and its first byte is where it stops without them. -/
theorem resetSignalLoadsPcSetsIAndCycles : Obligations.ResetSignalLoadsPcSetsIAndCycles :=
  ⟨fun _ _ h hc => resetSignal_vectorWord h hc, fun _ h hc => resetSignal_no_cart h hc⟩

end Sys2Proof.Proofs
